-- ==== Sys2Proof/Word.lean ====
section
/-! DEFINITION. The fixed-width words of the block and its fixed sizes (00_scope.md R6, R11).

`Ms` (a Millisecond value) has the width `MS_W`, which the spec leaves OPEN and the configuration fixes: it is held as a
natural number below `2 ^ MS_W`, and every addition on it names the width (00_scope.md R9). See log entry 4. -/

namespace Sys2Proof

/-- `Cnt`: an unsigned integer of `CNT_W` = 24 bits (R11). -/
abbrev Cnt := BitVec 24

/-- The fine clock's accumulator, `FT_W` = 64 bits (R6, R22). -/
abbrev Ticks := BitVec 64

/-- The LED output register: bit `i` drives LED `i`, 1 is lit (R29). -/
abbrev Ring := BitVec 8

/-- `N_SEG`: the number of LEDs in the ring (R6). -/
abbrev nSeg : Nat := 8

/-- The largest reload count, `2^24 - 1` (R6, R102). -/
abbrev maxReload : Nat := 2 ^ 24 - 1

/-- `BTN[0]` is the start/stop button, `BTN[1]` the add-time button (R6, R24). -/
inductive BtnId where
  | b0
  | b1
deriving DecidableEq, Repr, Inhabited

/-- `BlinkKind`, the blink mode of a render directive (R31). -/
inductive BlinkKind where
  | none
  | fast
  | slow
  | all
deriving DecidableEq, Repr, Inhabited

end Sys2Proof
end

