-- ==== Sys2Proof/Config.lean ====
section
/-! DEFINITION. The configuration of the block (00_scope.md R6, 10_state.md R35) and the free values.

Every parameter that the spec leaves OPEN is a field of `Params`. A `Config` is a `Params` that meets the constraints of
R6: "a model's configuration type carries the constraints" (93_implementation_defined.md U17). The configuration stands in
State as a constant, so that a statement about every state is a statement about every configuration (log entry 5). -/

namespace Sys2Proof

/-- `CLOCK_VARIANT` (R6): which of the two clock variants is built. -/
inductive Variant where
  | coarse
  | fine
deriving DecidableEq, Repr, Inhabited

/-- `TICKS_TO_MS` (R6): the default conversion, or the `k`-th of the other lawful ones (log entry 6). -/
inductive TicksToMs where
  | floorDiv
  | other (k : Nat)
deriving DecidableEq, Repr, Inhabited

/-- The OPEN parameters of 00_scope.md R6, each under the spec's own name. -/
structure Params where
  /-- `MS_W` -/
  msW : Nat
  /-- `CLOCK_VARIANT` -/
  variant : Variant
  /-- `TICK_PERIOD`, on the strap `cfg_tick_period_i` -/
  tickPeriod : Nat
  /-- `F_OSC_HZ`, on the strap `cfg_f_osc_i` -/
  fOsc : Nat
  /-- `TICKS_TO_MS` -/
  ticksToMs : TicksToMs
  /-- `DEBOUNCE_DELAY[0]` -/
  debounce0 : Nat
  /-- `DEBOUNCE_DELAY[1]` -/
  debounce1 : Nat
  /-- `SEG_PERIOD` -/
  segPeriod : Nat
  /-- `T_FAST_ON` -/
  tFastOn : Nat
  /-- `T_FAST_OFF` -/
  tFastOff : Nat
  /-- `T_SLOW_ON` -/
  tSlowOn : Nat
  /-- `T_SLOW_OFF` -/
  tSlowOff : Nat
  /-- `T_ALL` -/
  tAll : Nat
deriving DecidableEq, Repr

/-- The constraints of R6, as propositions. `TICK_PERIOD` is an `Ms` strap and `F_OSC_HZ` a 32-bit strap (R35).
DEDUCED, safe: the two strap widths are read as constraints of the configuration (log entry 18). -/
structure Params.Valid (p : Params) : Prop where
  tickPeriod_fits : p.tickPeriod < 2 ^ p.msW
  fOsc_pos : 1 ≤ p.fOsc
  fOsc_fits : p.fOsc < 2 ^ 32
  debounce0_fits : p.debounce0 < 2 ^ p.msW
  debounce1_fits : p.debounce1 < 2 ^ p.msW
  seg_pos : 1 ≤ p.segPeriod
  budget_fits : 8 * p.segPeriod < 2 ^ p.msW
  fast_order : p.tFastOff < p.tFastOn
  slow_order : p.tSlowOff < p.tSlowOn
  fastOn_fits : p.tFastOn < 2 ^ p.msW
  slowOn_fits : p.tSlowOn < 2 ^ p.msW
  all_fits : p.tAll < 2 ^ p.msW

/-- The same constraints as a check that runs. -/
def Params.check (p : Params) : Bool :=
  decide (p.tickPeriod < 2 ^ p.msW) && decide (1 ≤ p.fOsc) && decide (p.fOsc < 2 ^ 32)
    && decide (p.debounce0 < 2 ^ p.msW) && decide (p.debounce1 < 2 ^ p.msW)
    && decide (1 ≤ p.segPeriod) && decide (8 * p.segPeriod < 2 ^ p.msW)
    && decide (p.tFastOff < p.tFastOn) && decide (p.tSlowOff < p.tSlowOn)
    && decide (p.tFastOn < 2 ^ p.msW) && decide (p.tSlowOn < 2 ^ p.msW) && decide (p.tAll < 2 ^ p.msW)

/-- A well-formed configuration: parameters together with the proof that the check of R6 accepts them. -/
structure Config where
  params : Params
  wellFormed : params.check = true
deriving DecidableEq, Repr

/-- The parameters of configuration X1 of 95_test_vectors.md section 0 with the coarse clock. -/
def Params.x1 : Params :=
  { msW := 64, variant := .coarse, tickPeriod := 10, fOsc := 8000000, ticksToMs := .floorDiv,
    debounce0 := 20, debounce1 := 20, segPeriod := 1000, tFastOn := 150, tFastOff := 100,
    tSlowOn := 600, tSlowOff := 400, tAll := 500 }

/-- X1 with the coarse clock (`TICK_PERIOD` = 10). DESIGN CHOICE, unsafe where a claim rests on `State.reset` alone: the
spec leaves the parameters OPEN and calls X1 an example (log entry 5). -/
def Config.x1 : Config := ⟨Params.x1, by decide⟩

/-- X1 with the fine clock (`TICK_PERIOD` = 1, 95_test_vectors.md section 0). -/
def Config.x1Fine : Config := ⟨{ Params.x1 with variant := .fine, tickPeriod := 1 }, by decide⟩

/-- What the environment may do between two operations, and while the block waits in `CLK.WAIT` (00_scope.md R12,
20_memory.md R57): the host presents a command word (R70), a contact changes (R41), HWT advances by `k` counts (R101), or
`rst_n` is asserted (R230). -/
inductive Event where
  | command (w : Nat)
  | contact (b : BtnId) (pressed : Bool)
  | advance (k : Nat)
  | reset
deriving DecidableEq, Repr, Inhabited

/-- FREE VALUE: the `n`-th move of the environment where State lists none (93_implementation_defined.md U11, U12; log
entry 2). Nothing constrains it. -/
opaque Config.freeEvent : Nat → Event

/-- FREE VALUE: the counts HWT advances in the `n`-th gap between two port primitives where State lists none (U11,
40_clock.md R101; log entry 3). Nothing constrains it. -/
opaque Config.freeAdvance : Nat → Nat

/-- FREE VALUE: by how much the `k`-th other `TICKS_TO_MS` grows at count `n`. Its running sums are exactly the monotone
functions with value 0 at 0, which is all that 00_scope.md R6 says of `TICKS_TO_MS` (log entry 6). -/
opaque Config.freeTickGrowth : Nat → Nat → Nat

end Sys2Proof
end

