-- ==== Sys2Proof/Syntax.lean ====
section
/-! DEFINITION. The operations of the block as one inductive type (30_encoding.md R76): nine host commands and the four
internal sub-operations of the display, each with the operands R76 gives it. `now` operands are `Ms` values. -/

namespace Sys2Proof

/-- One constructor per row of spec/opcode_table.json. -/
inductive Instr where
  /-- `CLK.INIT`: clock construction from the straps (R102). -/
  | clkInit
  /-- `CLK.WAIT`: wait for a tick (R103, R104). -/
  | clkWait
  /-- `CLK.NOW`: the coarse time (R105). -/
  | clkNow
  /-- `FCLK.NOW`: the fine time (R107). -/
  | fclkNow
  /-- `BTN.UPDATE b now` (R121). -/
  | btnUpdate (b : BtnId) (now : Nat)
  /-- `ENG.UPDATE now` (R141). -/
  | engUpdate (now : Nat)
  /-- `ENG.ADDTIME` (R144). -/
  | engAddtime
  /-- `ENG.DIRECTIVE` (R146). -/
  | engDirective
  /-- `DSP.UPDATE n kind now` (R161). -/
  | dspUpdate (n : BitVec 4) (kind : BlinkKind) (now : Nat)
  /-- `SOLID.RESYNC n`, internal (R163). -/
  | solidResync (n : BitVec 4)
  /-- `BLINKY.UPDATE new_idx is_fast now`, internal (R165). -/
  | blinkyUpdate (newIdx : Option (BitVec 3)) (isFast : Bool) (now : Nat)
  /-- `BLINKY.TOGGLE is_fast`, internal (R168). -/
  | blinkyToggle (isFast : Bool)
  /-- `ALL.UPDATE now`, internal (R171). -/
  | allUpdate (now : Nat)
deriving DecidableEq, Repr

end Sys2Proof
end

