-- ==== Sys2Proof/WellFormed.lean ====
section
/-! DEFINITION. Which operations are well formed in a block whose `Ms` has `msW` bits, and which of them the host can
command (30_encoding.md R72, R76, R79). -/

namespace Sys2Proof

/-- The time operand of an operation that has one (R71 field `t`). -/
def Instr.time : Instr → Option Nat
  | .clkInit => none
  | .clkWait => none
  | .clkNow => none
  | .fclkNow => none
  | .btnUpdate _ now => some now
  | .engUpdate now => some now
  | .engAddtime => none
  | .engDirective => none
  | .dspUpdate _ _ now => some now
  | .solidResync _ => none
  | .blinkyUpdate _ _ now => some now
  | .blinkyToggle _ => none
  | .allUpdate now => some now

/-- The solid count given to the renderer is `0..8` (R163; `DSP.UPDATE` takes every 4-bit count, R161). -/
def Instr.countInRange : Instr → Bool
  | .clkInit => true
  | .clkWait => true
  | .clkNow => true
  | .fclkNow => true
  | .btnUpdate _ _ => true
  | .engUpdate _ => true
  | .engAddtime => true
  | .engDirective => true
  | .dspUpdate _ _ _ => true
  | .solidResync n => decide (n.toNat ≤ 8)
  | .blinkyUpdate _ _ _ => true
  | .blinkyToggle _ => true
  | .allUpdate _ => true

/-- Well formed: the time operand is an `Ms` value and the solid count is in range. -/
def Instr.wellFormed (msW : Nat) (i : Instr) : Bool :=
  (match i.time with
    | none => true
    | some now => decide (now < 2 ^ msW)) && i.countInRange

/-- The operations with a word on the command port: all but the four of format I (R72, R79). -/
def Instr.hostCommand : Instr → Bool
  | .clkInit => true
  | .clkWait => true
  | .clkNow => true
  | .fclkNow => true
  | .btnUpdate _ _ => true
  | .engUpdate _ => true
  | .engAddtime => true
  | .engDirective => true
  | .dspUpdate _ _ _ => true
  | .solidResync _ => false
  | .blinkyUpdate _ _ _ => false
  | .blinkyToggle _ => false
  | .allUpdate _ => false

end Sys2Proof
end

