-- ==== Sys2Proof/Decode.lean ====
section
/-! DEFINITION. The command word of 30_encoding.md R71: decoder, encoder, and the assembler syntax of R90.

A word of a block with an `Ms` of `msW` bits has `msW + 12` bits: `op` (4), `z` (2), `a` (6), `t` (`msW`). -/

namespace Sys2Proof

/-! ### Fields (R71) -/

/-- `op`, bits `[msW+11 : msW+8]`. -/
def fieldOp (msW w : Nat) : Nat := w / 2 ^ (msW + 8) % 16

/-- `z`, bits `[msW+7 : msW+6]`, must be zero. -/
def fieldZ (msW w : Nat) : Nat := w / 2 ^ (msW + 6) % 4

/-- `a`, bits `[msW+5 : msW]`. -/
def fieldA (msW w : Nat) : Nat := w / 2 ^ msW % 64

/-- `t`, bits `[msW-1 : 0]`. -/
def fieldT (msW w : Nat) : Nat := w % 2 ^ msW

/-- The word with the given fields, `z = 0`. -/
def packWord (msW op a t : Nat) : Nat := op * 2 ^ (msW + 8) + a * 2 ^ msW + t

/-! ### Enumeration codes (R74) -/

/-- The code of a button select (format B, `a[0]`). -/
def BtnId.code : BtnId → Nat
  | .b0 => 0
  | .b1 => 1

/-- The button select of a bit. -/
def BtnId.ofCode (c : Nat) : BtnId := if c % 2 = 0 then .b0 else .b1

/-- The 2-bit code of a `BlinkKind` (R31). -/
def BlinkKind.code : BlinkKind → Nat
  | .none => 0
  | .fast => 1
  | .slow => 2
  | .all => 3

/-- The `BlinkKind` of two bits: every code is assigned (R74). -/
def BlinkKind.ofCode (c : Nat) : BlinkKind :=
  match c % 4 with
  | 0 => .none
  | 1 => .fast
  | 2 => .slow
  | _ => .all

/-- The code of `CLOCK_VARIANT`: `COARSE` is 0, `FINE` is 1 (R74). -/
def Variant.code : Variant → Nat
  | .coarse => 0
  | .fine => 1

/-! ### The decoder (R77 check (2), R79) -/

/-- Why a word names no operation of the command port. -/
inductive DecodeError where
  /-- wider than `msW + 12` bits: no word of the port -/
  | tooWide
  /-- `op` is `0x9`: `SOLID.RESYNC`, internal -/
  | internalSolidResync
  /-- `op` is `0xA`: `BLINKY.UPDATE`, internal -/
  | internalBlinkyUpdate
  /-- `op` is `0xB`: `BLINKY.TOGGLE`, internal -/
  | internalBlinkyToggle
  /-- `op` is `0xC`: `ALL.UPDATE`, internal -/
  | internalAllUpdate
  /-- `op` is `0xD`, `0xE` or `0xF` -/
  | reservedOp
  /-- `z` is not zero -/
  | nonzeroZ
  /-- a must-be-zero part of `a` is not zero -/
  | nonzeroA
  /-- a must-be-zero `t` is not zero -/
  | nonzeroT
deriving DecidableEq, Repr

/-- Format N: `a` and `t` must be 0 (R72). -/
def decodeN (a t : Nat) (i : Instr) : Except DecodeError Instr :=
  if a ≠ 0 then .error .nonzeroA
  else if t ≠ 0 then .error .nonzeroT
  else .ok i

/-- Format T: `a` must be 0, `t` is `now` (R72). -/
def decodeT (a t : Nat) : Except DecodeError Instr :=
  if a ≠ 0 then .error .nonzeroA else .ok (.engUpdate t)

/-- Format B: `a[0]` is the button, `a[5:1]` must be 0, `t` is `now` (R72). -/
def decodeB (a t : Nat) : Except DecodeError Instr :=
  if a / 2 ≠ 0 then .error .nonzeroA else .ok (.btnUpdate (BtnId.ofCode a) t)

/-- Format D: `a[5:2]` is `n`, `a[1:0]` is `kind`, `t` is `now`; all 16 counts decode (R72, R73). -/
def decodeD (a t : Nat) : Except DecodeError Instr :=
  .ok (.dspUpdate (BitVec.ofNat 4 (a / 4)) (BlinkKind.ofCode a) t)

/-- The format that each code selects (R72, R76), on the fields `a` and `t`. -/
def decodeOp (op a t : Nat) : Except DecodeError Instr :=
  match op with
  | 0 => decodeN a t .clkInit
  | 1 => decodeN a t .clkWait
  | 2 => decodeN a t .clkNow
  | 3 => decodeN a t .fclkNow
  | 4 => decodeB a t
  | 5 => decodeT a t
  | 6 => decodeN a t .engAddtime
  | 7 => decodeN a t .engDirective
  | 8 => decodeD a t
  | 9 => .error .internalSolidResync
  | 10 => .error .internalBlinkyUpdate
  | 11 => .error .internalBlinkyToggle
  | 12 => .error .internalAllUpdate
  | _ => .error .reservedOp

/-- The operation a command word names, or the reason it names none. Total on every number. -/
def decode (msW w : Nat) : Except DecodeError Instr :=
  if w / 2 ^ (msW + 12) ≠ 0 then .error .tooWide
  else if fieldZ msW w ≠ 0 then .error .nonzeroZ
  else decodeOp (fieldOp msW w) (fieldA msW w) (fieldT msW w)

/-! ### The encoder (R71, R72, R76) -/

/-- The operation code of R76. -/
def Instr.op : Instr → Nat
  | .clkInit => 0
  | .clkWait => 1
  | .clkNow => 2
  | .fclkNow => 3
  | .btnUpdate _ _ => 4
  | .engUpdate _ => 5
  | .engAddtime => 6
  | .engDirective => 7
  | .dspUpdate _ _ _ => 8
  | .solidResync _ => 9
  | .blinkyUpdate _ _ _ => 10
  | .blinkyToggle _ => 11
  | .allUpdate _ => 12

/-- The word of an operation. For an internal operation this is the code that stands "for traces only" (R72): its operands
have no place in the word, and the decoder refuses it. -/
def encode (msW : Nat) (i : Instr) : Nat :=
  match i with
  | .clkInit => packWord msW i.op 0 0
  | .clkWait => packWord msW i.op 0 0
  | .clkNow => packWord msW i.op 0 0
  | .fclkNow => packWord msW i.op 0 0
  | .btnUpdate b now => packWord msW i.op b.code now
  | .engUpdate now => packWord msW i.op 0 now
  | .engAddtime => packWord msW i.op 0 0
  | .engDirective => packWord msW i.op 0 0
  | .dspUpdate n kind now => packWord msW i.op (n.toNat * 4 + kind.code) now
  | .solidResync _ => packWord msW i.op 0 0
  | .blinkyUpdate _ _ _ => packWord msW i.op 0 0
  | .blinkyToggle _ => packWord msW i.op 0 0
  | .allUpdate _ => packWord msW i.op 0 0

/-! ### The opcode table's numbering -/

/-- spec/opcode_table.json gives the words for `MS_W` = 64 (R77). -/
abbrev tableMsW : Nat := 64

/-- The operation the decoder reads from a word of the table; `none` where it refuses (the four rows of format I). -/
def decodeTableWord (nbits w : Nat) : Option Instr :=
  match decode tableMsW (w % 2 ^ nbits) with
  | .ok i => some i
  | .error _ => none

/-! ### The assembler syntax (R90) -/

/-- `0` or `1`. -/
def BtnId.text : BtnId → String
  | .b0 => "0"
  | .b1 => "1"

/-- The name of a `BlinkKind`. -/
def BlinkKind.text : BlinkKind → String
  | .none => "None"
  | .fast => "Fast"
  | .slow => "Slow"
  | .all => "All"

/-- The mnemonic followed by `name=value` operands in the order of R76. R90 gives the host commands; the internal
operations are written in the same form (DESIGN CHOICE, safe: text only, log entry 10). -/
def Instr.text : Instr → String
  | .clkInit => "CLK.INIT"
  | .clkWait => "CLK.WAIT"
  | .clkNow => "CLK.NOW"
  | .fclkNow => "FCLK.NOW"
  | .btnUpdate b now => "BTN.UPDATE b=" ++ b.text ++ " now=" ++ toString now
  | .engUpdate now => "ENG.UPDATE now=" ++ toString now
  | .engAddtime => "ENG.ADDTIME"
  | .engDirective => "ENG.DIRECTIVE"
  | .dspUpdate n kind now =>
    "DSP.UPDATE n=" ++ toString n.toNat ++ " kind=" ++ kind.text ++ " now=" ++ toString now
  | .solidResync n => "SOLID.RESYNC n=" ++ toString n.toNat
  | .blinkyUpdate newIdx isFast now =>
    "BLINKY.UPDATE new_idx=" ++ (match newIdx with
      | none => "none"
      | some i => toString i.toNat) ++ " is_fast=" ++ toString isFast.toNat ++ " now=" ++ toString now
  | .blinkyToggle isFast => "BLINKY.TOGGLE is_fast=" ++ toString isFast.toNat
  | .allUpdate now => "ALL.UPDATE now=" ++ toString now

end Sys2Proof
end

