-- ==== Sys2Proof/Machine/State.lean ====
section
/-! DEFINITION. The state of the machine: the five records of the block (10_state.md R20), the command port (30_encoding.md
R70), the environment part (10_state.md R23), the configuration (R35), and what the environment does next. -/

namespace Sys2Proof.Machine

/-- The clock unit (10_state.md R21, R22). -/
structure Clk where
  /-- `CLK.clk_valid` -/
  clkValid : Bool
  /-- `CLK.ms_acc`, an `Ms` -/
  msAcc : Nat
  /-- `CLK.fticks` -/
  fticks : Ticks
  /-- `CLK.last_read` -/
  lastRead : Cnt
deriving DecidableEq, Repr

/-- One button (10_state.md R24). -/
structure Btn where
  /-- `BTN[b].level`: the last debounced level, true is pressed -/
  level : Bool
  /-- `BTN[b].deb_valid`: a deadline is stored -/
  debValid : Bool
  /-- `BTN[b].deb_until`: the deadline, an `Ms`; means nothing while `debValid` is false (R45) -/
  debUntil : Nat
deriving DecidableEq, Repr

/-- The engine (10_state.md R27). -/
structure Eng where
  /-- `ENG.running` -/
  running : Bool
  /-- `ENG.remaining`, an `Ms` -/
  remaining : Nat
  /-- `ENG.last_update`, an `Ms` -/
  lastUpdate : Nat
deriving DecidableEq, Repr

/-- The display (10_state.md R29, R30). -/
structure Dsp where
  /-- `DSP.led`: bit `i` drives LED `i` -/
  led : Ring
  /-- `DSP.num_on`: the solid count of the last resync -/
  numOn : BitVec 4
  /-- `DSP.was_all`: the previous frame's directive was `All` -/
  wasAll : Bool
  /-- `DSP.bl_valid`: an LED is blinking -/
  blValid : Bool
  /-- `DSP.bl_idx`: which one; means nothing while `blValid` is false (R45) -/
  blIdx : BitVec 3
  /-- `DSP.bl_on`: the remembered phase, not the wire (43_display.md R170) -/
  blOn : Bool
  /-- `DSP.bl_next`, an `Ms` -/
  blNext : Nat
  /-- `DSP.all_on` -/
  allOn : Bool
  /-- `DSP.all_next`, an `Ms` -/
  allNext : Nat
deriving DecidableEq, Repr

/-- The status of a response (30_encoding.md R78). -/
inductive Status where
  | ok
  | illegal
  | noclock
  | fault
deriving DecidableEq, Repr

/-- A response of the command port: `rsp_status_o` and `rsp_data_o` (30_encoding.md R70, R75). -/
structure Response where
  status : Status
  data : Nat
deriving DecidableEq, Repr

/-- The hardware counter HWT, an environment agent (10_state.md R23, 40_clock.md R101). -/
structure Hwt where
  /-- `HWT.phase` -/
  phase : Cnt
  /-- `HWT.wrapf` -/
  wrapf : Bool
deriving DecidableEq, Repr

/-- The inputs `pressed_i[1:0]` (10_state.md R41). -/
structure Contacts where
  pressed0 : Bool
  pressed1 : Bool
deriving DecidableEq, Repr

/-- What the environment does next (00_scope.md R12). The model's own record, not the spec's (log entries 1 to 3). -/
structure Env where
  /-- the next moves between operations, the first one next -/
  events : List Event
  /-- the counts HWT advances in the next gaps between two port primitives of one operation -/
  draws : List Nat
  /-- how many free values have been drawn -/
  drawn : Nat
deriving DecidableEq, Repr

/-- The whole state. -/
structure State where
  /-- the configuration: a constant (10_state.md R35) -/
  cfg : Config
  clk : Clk
  /-- `BTN[0]`, start/stop -/
  btn0 : Btn
  /-- `BTN[1]`, add-time -/
  btn1 : Btn
  eng : Eng
  dsp : Dsp
  /-- `fault`: sticky (10_state.md R38) -/
  fault : Bool
  /-- `fault_cause` (10_state.md R38) -/
  faultCause : BitVec 2
  /-- an accepted `CLK.WAIT` has not ended: `cmd_ready_o = 0` (30_encoding.md R70) -/
  waiting : Bool
  /-- the response of the command that ended in the last step, if one did (30_encoding.md R70) -/
  rsp : Option Response
  /-- `wrap_clr_o`: the block gave the pulse that clears the wrap flag in the last step (10_state.md R42; log entry 8) -/
  wrapClr : Bool
  hwt : Hwt
  contacts : Contacts
  env : Env
deriving DecidableEq, Repr

/-- How the machine stops with a fault: it never does. The block's own fault is a state it goes on from (60_exceptions.md
R204, R205: sticky, every later command answered `FAULT`, left by reset), so it is a next state, and the type is empty. -/
inductive Fault where
deriving DecidableEq, Repr

/-- Why an operation has no meaning in the model. The refusals of the spec (`ILLEGAL`, `NOCLOCK`, `FAULT`: 30_encoding.md
R78) are responses and so next states; an ill-formed configuration cannot be built (`Config`). -/
inductive Refusal where
  /-- raised by an arm of `exec` that gives its operation no meaning; no arm does. Safe. -/
  | notModelled (mnemonic : String)
deriving DecidableEq, Repr

/-! ### Reset values (10_state.md R44, all zero) -/

def Clk.reset : Clk := { clkValid := false, msAcc := 0, fticks := 0, lastRead := 0 }

def Btn.reset : Btn := { level := false, debValid := false, debUntil := 0 }

def Eng.reset : Eng := { running := false, remaining := 0, lastUpdate := 0 }

def Dsp.reset : Dsp :=
  { led := 0, numOn := 0, wasAll := false, blValid := false, blIdx := 0, blOn := false, blNext := 0,
    allOn := false, allNext := 0 }

/-- The machine right after reset in a given configuration. HWT and the contacts are not reset by `rst_n` (R44): their
values here are a DESIGN CHOICE, unsafe (log entry 7). -/
def State.resetWith (cfg : Config) : State :=
  { cfg := cfg, clk := Clk.reset, btn0 := Btn.reset, btn1 := Btn.reset, eng := Eng.reset, dsp := Dsp.reset,
    fault := false, faultCause := 0, waiting := false, rsp := none, wrapClr := false,
    hwt := { phase := 0, wrapf := false }, contacts := { pressed0 := false, pressed1 := false },
    env := { events := [], draws := [], drawn := 0 } }

/-- The machine right after reset, in example configuration X1 (DESIGN CHOICE, unsafe: log entry 5). -/
def State.reset : State := State.resetWith Config.x1

end Sys2Proof.Machine
end

