-- ==== Sys2Proof/Machine/Flags.lean ====
section
/-! DEFINITION. The one-bit values, codes and words computed from the state (10_state.md R25, R26, R33, R34, R38, R43;
30_encoding.md R74, R78). The block has no condition-code register (R33). -/

namespace Sys2Proof.Machine

/-- `ButtonEvent` (10_state.md R26). -/
inductive ButtonEvent where
  | notPressed
  | release
  | pressed
  | push
deriving DecidableEq, Repr

/-- The 2-bit code `{is_pressed, is_change}` (R26). -/
def ButtonEvent.code : ButtonEvent → Nat
  | .notPressed => 0
  | .release => 1
  | .pressed => 2
  | .push => 3

/-- `is_pressed`: true for `Push` and `Pressed` (R26). -/
def ButtonEvent.isPressed : ButtonEvent → Bool
  | .notPressed => false
  | .release => false
  | .pressed => true
  | .push => true

/-- `is_change`: true for `Push` and `Release` (R26). -/
def ButtonEvent.isChange : ButtonEvent → Bool
  | .notPressed => false
  | .release => true
  | .pressed => false
  | .push => true

/-- `level_event(l)` (R26). -/
def levelEvent (l : Bool) : ButtonEvent := if l then .pressed else .notPressed

/-- `edge_event(l)` (R26). -/
def edgeEvent (l : Bool) : ButtonEvent := if l then .push else .release

/-- The 2-bit button state code `{deb_valid, level}` (R25). -/
def Btn.stateCode (b : Btn) : BitVec 2 := BitVec.ofBool b.debValid ++ BitVec.ofBool b.level

/-- The causes of a fault (R38, 60_exceptions.md R201). -/
inductive FaultCause where
  | solidRange
  | blinkIndex
deriving DecidableEq, Repr

/-- The code of a cause: `SOLID_RANGE` is `'b01`, `BLINK_INDEX` is `'b10` (R38). -/
def FaultCause.code : FaultCause → BitVec 2
  | .solidRange => 1
  | .blinkIndex => 2

/-- The 2-bit status code `rsp_status_o` (30_encoding.md R78). -/
def Status.code : Status → BitVec 2
  | .ok => 0
  | .illegal => 1
  | .noclock => 2
  | .fault => 3

/-- `STATUS`, on `status_o`: `[0] = clk_valid`, `[1] = fault`, `[3:2] = fault_cause` (R34). -/
def State.statusWord (s : State) : BitVec 4 :=
  s.faultCause ++ BitVec.ofBool s.fault ++ BitVec.ofBool s.clk.clkValid

/-- `led_o`, continuously `DSP.led` (R43). -/
def State.ledO (s : State) : Ring := s.dsp.led

/-- `cmd_ready_o`: 0 while an accepted command has not ended (30_encoding.md R70). DESIGN CHOICE (log entry 8): the cycle of
the response and the return of `cmd_ready_o` to 1 after it are one state, which shows both `rsp_valid_o` and `cmd_ready_o`
at 1. -/
def State.cmdReadyO (s : State) : Bool := !s.waiting

/-- `rsp_valid_o` (30_encoding.md R70). -/
def State.rspValidO (s : State) : Bool := s.rsp.isSome

end Sys2Proof.Machine
end

