-- ==== Sys2Proof/Machine/Operands.lean ====
section
/-! DEFINITION. Operands and results: the render directive (10_state.md R32), the LED index space (20_memory.md R50, R51)
and the parameters that a button index selects (00_scope.md R6). -/

namespace Sys2Proof.Machine

/-- `Directive`: the pair of the solid count and the blink kind (R32). The count has 4 bits (R11; log entry 11). -/
structure Directive where
  n : BitVec 4
  kind : BlinkKind
deriving DecidableEq, Repr

/-- The 6-bit code of a directive: `[5:2] = n`, `[1:0] = kind` (R32, 30_encoding.md R75). -/
def Directive.code (d : Directive) : Nat := d.n.toNat * 4 + d.kind.code

/-- The kinds with one blinking LED (R31). -/
def isBlink (k : BlinkKind) : Bool :=
  match k with
  | .none => false
  | .fast => true
  | .slow => true
  | .all => false

/-- The blinking index of a directive: the LED whose index is the solid count, when the kind is `Fast` or `Slow` (R32). -/
def blinkIndexOf (n : BitVec 4) (k : BlinkKind) : Option (BitVec 3) :=
  if isBlink k then some (n.setWidth 3) else none

/-- `led[i] <- v`. -/
def ledWrite (r : Ring) (i : Nat) (v : Bool) : Ring :=
  if v then r ||| BitVec.twoPow 8 i else r &&& ~~~(BitVec.twoPow 8 i)

/-- `for i in 0 .. 7: led[i] <- f i`. -/
def ledWriteAll (r : Ring) (f : Nat → Bool) : Ring :=
  (List.range nSeg).foldl (fun r i => ledWrite r i (f i)) r

/-- `DEBOUNCE_DELAY[b]` (00_scope.md R6). -/
def debounceDelay (p : Params) : BtnId → Nat
  | .b0 => p.debounce0
  | .b1 => p.debounce1

/-- `BTN[b]`. -/
def State.btn (s : State) : BtnId → Btn
  | .b0 => s.btn0
  | .b1 => s.btn1

/-- `BTN[b] <- B`. -/
def State.setBtn (s : State) (b : BtnId) (B : Btn) : State :=
  match b with
  | .b0 => { s with btn0 := B }
  | .b1 => { s with btn1 := B }

end Sys2Proof.Machine
end

