-- ==== Sys2Proof/Machine/Ops.lean ====
section
/-! DEFINITION. The shared operations: the arithmetic primitives of 00_scope.md R9, the derived parameters of R6, the port
primitives of R10 and the HWT contract of 40_clock.md R101, responses and refusals (30_encoding.md R77, R78), fault entry
(60_exceptions.md R204) and reset (70_reset_and_hazards.md R230). -/

namespace Sys2Proof.Machine

/-- The parameters of the configuration. -/
abbrev State.par (s : State) : Params := s.cfg.params

/-! ### Arithmetic (00_scope.md R9) -/

/-- `wrap_add_W(a, b) = (a + b) mod 2^W`. -/
def wrapAdd (w a b : Nat) : Nat := (a + b) % 2 ^ w

/-- `sat_sub(a, b) = a - b if a >= b, else 0`. -/
def satSub (a b : Nat) : Nat := if b ≤ a then a - b else 0

/-- `wrap_sub_64(a, b)` of two counter samples (R9, 40_clock.md R106). -/
def wrapSub64 (a b : Cnt) : Ticks := a.setWidth 64 - b.setWidth 64

/-! ### Derived parameters (00_scope.md R6) -/

/-- `RELOAD = floor(F_OSC_HZ * TICK_PERIOD / 1000)`, exact. -/
def reload (p : Params) : Nat := p.fOsc * p.tickPeriod / 1000

/-- The reload count is in the timer's range, both bounds included (40_clock.md R102). -/
def reloadOk (p : Params) : Bool := decide (1 ≤ reload p) && decide (reload p ≤ maxReload)

/-- `MAX_COUNT = RELOAD`. -/
def maxCount (p : Params) : Nat := reload p

/-- The running sums of a sequence of increments: a monotone function with value 0 at 0. -/
def tickGrowthSum (k : Nat) : Nat → Nat
  | 0 => 0
  | n + 1 => tickGrowthSum k n + Config.freeTickGrowth k n

/-- `TICKS_TO_MS` (R6): the default `n -> floor(n * 1000 / F_OSC_HZ)`, or any other function the spec's laws allow. -/
def ticksToMs (p : Params) (n : Nat) : Nat :=
  match p.ticksToMs with
  | .floorDiv => n * 1000 / p.fOsc
  | .other k => tickGrowthSum k n

/-! ### HWT and the port primitives (40_clock.md R101, 20_memory.md R54) -/

/-- `HWT.advance(k)` of a counter whose phase runs `0 .. max`. DESIGN CHOICE (log entry 19): where `max` does not fit the
24 bits of a `Cnt`, so that no clock can be valid, the phase is the low 24 bits of R101's value. -/
def Hwt.advance (max k : Nat) (h : Hwt) : Hwt :=
  let total := h.phase.toNat + k
  { phase := BitVec.ofNat 24 (total % (max + 1)), wrapf := h.wrapf || decide (1 ≤ total / (max + 1)) }

/-- HWT advances by `k` counts. -/
def hwtAdvance (k : Nat) (s : State) : State := { s with hwt := s.hwt.advance (maxCount s.par) k }

/-- The counts HWT advances in the next gap between two port primitives: the listed count, or a free one. -/
def gapCount (s : State) : Nat :=
  match s.env.draws with
  | k :: _ => k
  | [] => Config.freeAdvance s.env.drawn

/-- The environment's record after that gap. -/
def Env.drawGap (e : Env) : Env :=
  match e.draws with
  | _ :: ks => { e with draws := ks }
  | [] => { e with drawn := e.drawn + 1 }

/-- HWT's step in the gap between two port primitives (20_memory.md R57). -/
def hwtGap (s : State) : State := hwtAdvance (gapCount s) { s with env := s.env.drawGap }

/-- `SampleCount()`. -/
def sampleCount (s : State) : Cnt := s.hwt.phase

/-- `PeekWrapFlag()`. -/
def peekWrapFlag (s : State) : Bool := s.hwt.wrapf

/-- `ReadClearWrapFlag()`: the flag, and the state with the flag cleared by the pulse `wrap_clr_o`, in one step. -/
def readClearWrapFlag (s : State) : Bool × State :=
  (s.hwt.wrapf, { s with hwt := { s.hwt with wrapf := false }, wrapClr := true })

/-- `SamplePressed(b)`: the present value of `pressed_i[b]` (10_state.md R41). -/
def samplePressed (b : BtnId) (s : State) : Bool :=
  match b with
  | .b0 => s.contacts.pressed0
  | .b1 => s.contacts.pressed1

/-- The contact of button `b` takes the value `v`. -/
def setContact (b : BtnId) (v : Bool) (s : State) : State :=
  match b with
  | .b0 => { s with contacts := { s.contacts with pressed0 := v } }
  | .b1 => { s with contacts := { s.contacts with pressed1 := v } }

/-- `cnt_i[23:0] = MAX_COUNT - s`, the down-counting register behind the sample (10_state.md R42). DESIGN CHOICE (log entry
19): its low 24 bits where `MAX_COUNT` does not fit a `Cnt`. -/
def State.cntI (s : State) : Cnt := BitVec.ofNat 24 (maxCount s.par - s.hwt.phase.toNat)

/-- `wrapf_i`, the flag the block polls (10_state.md R42). -/
def State.wrapfI (s : State) : Bool := peekWrapFlag s

/-- `wrap_clr_o` (10_state.md R42). -/
def State.wrapClrO (s : State) : Bool := s.wrapClr

/-- `reload_o`: the value a successful `CLK.INIT` has programmed into the counter (10_state.md R42, 40_clock.md R102), which
fits its 24 bits. DEDUCED (log entry 12): it is shown while there is a clock; the spec gives no value for any other time, and
then this is `none`. -/
def State.reloadO (s : State) : Option Cnt :=
  if s.clk.clkValid && reloadOk s.par then some (BitVec.ofNat 24 (reload s.par)) else none

/-! ### Pulses (30_encoding.md R70, 10_state.md R42) -/

/-- The outputs that last one cycle, the response and `wrap_clr_o`, are over (log entry 8). -/
def endPulses (s : State) : State := { s with rsp := none, wrapClr := false }

/-! ### Responses and refusals (30_encoding.md R75, R78) -/

/-- A command ends: `rsp_valid_o`, with a status and the low `MS_W` bits of the data (log entry 8). -/
def respond (st : Status) (data : Nat) (s : State) : State := { s with rsp := some ⟨st, data % 2 ^ s.par.msW⟩ }

/-- A refusal: a status, no data, no other change (R78, 60_exceptions.md R206). -/
def refuse (st : Status) (s : State) : State := respond st 0 s

/-- The state after a command: check (1) of R77, then the operation. -/
def runCommand (run : State → State) (s : State) : State :=
  if s.fault then refuse .fault s else run s

/-- The state after a clock command: checks (1), (3) and (4) of R77, then the operation. -/
def runClockCommand (legal : Bool) (run : State → State) (s : State) : State :=
  if s.fault then refuse .fault s
  else if !legal then refuse .illegal s
  else if !s.clk.clkValid then refuse .noclock s
  else run s

/-- The state after a sub-operation run by itself: it answers nothing, and after a fault no operation runs
(60_exceptions.md R210; log entry 10). -/
def runSub (run : State → State) (s : State) : State :=
  if s.fault then s else run s

/-! ### Taking a fault, and leaving it (60_exceptions.md R204, R205) -/

/-- `raise Fatal(cause)`: the fault record is written and nothing else. There is no handler, no saved context and no
return operation (R204, R210). -/
def raiseFatal (c : FaultCause) (s : State) : State := { s with fault := true, faultCause := c.code }

/-- `rst_n` low: every field of the block takes its reset value and a command in progress is abandoned without a response
(70_reset_and_hazards.md R230). It is the only way out of a fault. HWT, the contacts and the straps are not the block's. -/
def resetBlock (s : State) : State :=
  { s with clk := Clk.reset, btn0 := Btn.reset, btn1 := Btn.reset, eng := Eng.reset, dsp := Dsp.reset,
           fault := false, faultCause := 0, waiting := false, rsp := none, wrapClr := false }

/-! ### The environment directives of the test vectors (30_encoding.md R91) -/

/-- `ENV pressed[b]=v`. -/
def envPressed (b : BtnId) (v : Bool) (s : State) : State := setContact b v s

/-- `ENV advance k`. -/
def envAdvance (k : Nat) (s : State) : State := hwtAdvance k s

/-- `ENV phase=v wrapf=f`: sets the HWT state directly. No event does this: HWT itself moves only as R101 says. -/
def envSetHwt (phase : Cnt) (wrapf : Bool) (s : State) : State := { s with hwt := { phase := phase, wrapf := wrapf } }

end Sys2Proof.Machine
end

