-- ==== Sys2Proof/Machine/Button.lean ====
section
/-! DEFINITION. The button unit: `BTN.UPDATE` (41_button.md). -/

namespace Sys2Proof.Machine

open Host

/-- A `BTN.UPDATE` at `now` holds: a window is open and `now` is before its deadline (R121, strict). -/
def Btn.holds (B : Btn) (now : Nat) : Bool := B.debValid && decide (now < B.debUntil)

/-- The evaluation after a sample `p` of a button with window `delay` (R121, R123). -/
def buttonSampled (msW delay : Nat) (B : Btn) (now : Nat) (p : Bool) : ButtonEvent × Btn :=
  if p = B.level then (levelEvent p, { B with debValid := false })
  else if 0 < delay then (edgeEvent p, { level := p, debValid := true, debUntil := wrapAdd msW now delay })
  else (edgeEvent p, { B with level := p, debValid := false })

/-- One evaluation of the debouncer (R121). A hold takes no sample and returns the level event of the remembered level
(R122). -/
def buttonEval (msW delay : Nat) (B : Btn) (now : Nat) (p : Bool) : ButtonEvent × Btn :=
  if B.holds now then (levelEvent B.level, B) else buttonSampled msW delay B now p

/-- `call BTN.UPDATE(b, now)`: the returned event and the state after. -/
def buttonUpdate (b : BtnId) (now : Nat) (s : State) : ButtonEvent × State :=
  let r := buttonEval s.par.msW (debounceDelay s.par b) (s.btn b) now (samplePressed b s)
  (r.1, s.setBtn b r.2)

/-- The commanded update: the event is the response (30_encoding.md R75). -/
def btnUpdateRun (b : BtnId) (now : Nat) (s : State) : State :=
  let r := buttonUpdate b now s
  respond .ok r.1.code r.2

/-- `BTN.UPDATE` (R121). -/
def execBtnUpdate (b : BtnId) (now : Nat) (s : State) : Outcome State Fault Refusal :=
  .next (runCommand (btnUpdateRun b now) s)

end Sys2Proof.Machine
end

