-- ==== Sys2Proof/Machine/Clock.lean ====
section
/-! DEFINITION. The clock unit: `CLK.INIT`, `CLK.WAIT`, `CLK.NOW`, `FCLK.NOW` (40_clock.md). -/

namespace Sys2Proof.Machine

open Host

/-! ### Construction (R102) -/

/-- A clock is produced: the accumulators and HWT start from 0. DEDUCED (log entry 8): the block clears the flag by the pulse
`wrap_clr_o` here too, as R42 names no other way. -/
def clockStart (s : State) : State :=
  { s with clk := { clkValid := true, msAcc := 0, fticks := 0, lastRead := 0 },
           hwt := { phase := 0, wrapf := false }, wrapClr := true }

/-- No clock is produced: "nothing else changes". -/
def clockFail (s : State) : State := { s with clk := { s.clk with clkValid := false } }

/-- The construction, with the returned bit as the response. -/
def clkInitRun (s : State) : State :=
  if reloadOk s.par then respond .ok 1 (clockStart s) else respond .ok 0 (clockFail s)

/-- `CLK.INIT` (R102). -/
def execClkInit (s : State) : Outcome State Fault Refusal := .next (runCommand clkInitRun s)

/-! ### Waiting (R103, R104) -/

/-- The coarse wait ends: HWT may move between the peek and the read (20_memory.md R57), the flag is read and cleared, the
accumulator grows by one `TICK_PERIOD` (R103). -/
def coarseTick (s : State) : State :=
  let s1 := (readClearWrapFlag (hwtGap s)).2
  { s1 with clk := { s1.clk with msAcc := wrapAdd s1.par.msW s1.clk.msAcc s1.par.tickPeriod } }

/-- The wait ends. In the fine variant the flag is not cleared and nothing changes (R104). -/
def waitEnd (s : State) : State :=
  respond .ok 0
    (match s.par.variant with
      | .coarse => { coarseTick s with waiting := false }
      | .fine => { s with waiting := false })

/-- One poll of the flag: the wait ends when it is set, and otherwise goes on. -/
def pollWait (s : State) : State := if peekWrapFlag s then waitEnd s else s

/-- The command is accepted: it is in progress until a poll finds the flag set (30_encoding.md R70). -/
def clkWaitRun (s : State) : State := pollWait { s with waiting := true, rsp := none }

/-- `CLK.WAIT` (R103, R104), legal in both variants. -/
def execClkWait (s : State) : Outcome State Fault Refusal := .next (runClockCommand true clkWaitRun s)

/-! ### Reading the coarse time (R105) -/

/-- `CLK.NOW` returns the accumulator and writes nothing. -/
def clkNowRun (s : State) : State := respond .ok s.clk.msAcc s

/-- `CLK.NOW` (R105), legal only in the coarse variant (30_encoding.md R81). -/
def execClkNow (s : State) : Outcome State Fault Refusal :=
  .next (runClockCommand (decide (s.par.variant = .coarse)) clkNowRun s)

/-! ### Reading the fine time (R106, R107) -/

/-- The delta of the wrap branch, exact: `(MAX_COUNT - last_read) + s2`. -/
def wrapDelta (max : Nat) (lastRead s2 : Cnt) : Int := ((max : Int) - lastRead.toNat) + s2.toNat

/-- The delta, as the accumulator's width takes it (R107). -/
def fineDelta (max : Nat) (lastRead s1 : Cnt) (f : Bool) (s2 : Cnt) : Ticks :=
  if f || decide (s2 < s1) then BitVec.ofInt 64 (wrapDelta max lastRead s2) else wrapSub64 s2 lastRead

/-- The double read: first sample, flag, second sample, with HWT free to move in the two gaps; then the bookkeeping. -/
def fclkNowRun (s : State) : State :=
  let s1 := sampleCount s
  let (f, a) := readClearWrapFlag (hwtGap s)
  let b := hwtGap a
  let s2 := sampleCount b
  let fticks := b.clk.fticks + fineDelta (maxCount b.par) b.clk.lastRead s1 f s2
  respond .ok (ticksToMs b.par fticks.toNat)
    { b with clk := { b.clk with fticks := fticks, lastRead := s2 } }

/-- `FCLK.NOW` (R107), legal only in the fine variant (30_encoding.md R81). -/
def execFclkNow (s : State) : Outcome State Fault Refusal :=
  .next (runClockCommand (decide (s.par.variant = .fine)) fclkNowRun s)

end Sys2Proof.Machine
end

