-- ==== Sys2Proof/Machine/Display.lean ====
section
/-! DEFINITION. The display unit: `DSP.UPDATE` and its sub-operations `SOLID.RESYNC`, `BLINKY.UPDATE`, `BLINKY.TOGGLE`,
`ALL.UPDATE` (43_display.md), as functions of the display record. -/

namespace Sys2Proof.Machine

open Host

/-! ### The solid renderer (R163) -/

/-- `SOLID.RESYNC(n)`: LED `i` is lit exactly when `i < n`; `num_on <- n`. -/
def resync (n : BitVec 4) (d : Dsp) : Dsp :=
  { d with led := ledWriteAll d.led (fun i => decide (i < n.toNat)), numOn := n }

/-! ### Blinky (R165, R168) -/

/-- The duration selected by the speed and the new phase (R168, R169). -/
def toggleDuration (p : Params) (isFast newPhase : Bool) : Nat :=
  if isFast then (if newPhase then p.tFastOn else p.tFastOff)
  else (if newPhase then p.tSlowOn else p.tSlowOff)

/-- `BLINKY.TOGGLE(is_fast)` (R168): the wire is inverted from its present value, the deadline advances from its old one. -/
def toggle (p : Params) (isFast : Bool) (d : Dsp) : Dsp :=
  let i := d.blIdx.toNat
  let newPhase := !d.blOn
  { d with led := ledWrite d.led i (!d.led.getLsbD i), blOn := newPhase,
           blNext := wrapAdd p.msW d.blNext (toggleDuration p isFast newPhase) }

/-- Case `(some A, none)`: blinking stops. -/
def blinkStop (d : Dsp) : Dsp :=
  { d with led := ledWrite d.led d.blIdx.toNat false, blValid := false, blOn := false }

/-- Case `(none, some B)`: blinking starts, phase assumed on, toggled at once. -/
def blinkStart (p : Params) (B : BitVec 3) (isFast : Bool) (now : Nat) (d : Dsp) : Dsp :=
  toggle p isFast { d with blValid := true, blIdx := B, blOn := true, blNext := now }

/-- Case `(some A, some B)`, `A` not `B`: the blinking LED moves, no toggle in this frame (R167). -/
def blinkMove (B : BitVec 3) (now : Nat) (d : Dsp) : Dsp :=
  { d with blIdx := B, blOn := !d.blOn, blNext := now }

/-- `BLINKY.UPDATE(new_idx, is_fast, now)` (R165). -/
def blinky (p : Params) (newIdx : Option (BitVec 3)) (isFast : Bool) (now : Nat) (d : Dsp) : Dsp :=
  match d.blValid, newIdx with
  | false, none => d
  | true, none => blinkStop d
  | false, some B => blinkStart p B isFast now d
  | true, some B =>
    if d.blIdx = B then (if d.blNext ≤ now then toggle p isFast d else d)
    else blinkMove B now d

/-! ### The all-ring blink (R171) -/

/-- Entry into `All` mode: Blinky is reset, no LED is written. -/
def allEnter (now : Nat) (d : Dsp) : Dsp :=
  { d with wasAll := true, blValid := false, blOn := false, allOn := false, allNext := now }

/-- The lockstep toggle of the whole ring. -/
def allToggle (p : Params) (d : Dsp) : Dsp :=
  { d with allOn := !d.allOn, led := ledWriteAll d.led (fun _ => !d.allOn),
           allNext := wrapAdd p.msW d.allNext p.tAll }

/-- `ALL.UPDATE(now)` (R171). -/
def allUpdate (p : Params) (now : Nat) (d : Dsp) : Dsp :=
  let e := if d.wasAll then d else allEnter now d
  if e.allNext ≤ now then allToggle p e else e

/-! ### The frame (R161) -/

/-- A frame whose directive is not `All`: solid renderer first, Blinky second (R162, R164). -/
def frameNotAll (p : Params) (n : BitVec 4) (kind : BlinkKind) (now : Nat) (d : Dsp) : Dsp :=
  let e := if n ≠ d.numOn ∨ d.wasAll = true then resync n d else d
  blinky p (blinkIndexOf n kind) (decide (kind = .fast)) now { e with wasAll := false }

/-- `DSP.UPDATE(n, kind, now)` (R161): the new display, or the cause of a fault, tested before any write. -/
def frame (p : Params) (n : BitVec 4) (kind : BlinkKind) (now : Nat) (d : Dsp) : Except FaultCause Dsp :=
  if 8 < n.toNat then .error .solidRange
  else if isBlink kind ∧ n.toNat = 8 then .error .blinkIndex
  else if kind = .all then .ok (allUpdate p now d)
  else .ok (frameNotAll p n kind now d)

/-- The commanded frame: status `OK`, or fault entry and status `FAULT` (60_exceptions.md R204). -/
def dspUpdateRun (n : BitVec 4) (kind : BlinkKind) (now : Nat) (s : State) : State :=
  match frame s.par n kind now s.dsp with
  | .ok d => respond .ok 0 { s with dsp := d }
  | .error c => respond .fault 0 (raiseFatal c s)

/-- `DSP.UPDATE` (R161). -/
def execDspUpdate (n : BitVec 4) (kind : BlinkKind) (now : Nat) (s : State) : Outcome State Fault Refusal :=
  .next (runCommand (dspUpdateRun n kind now) s)

/-! ### The sub-operations by themselves (30_encoding.md R76, R79; log entry 10) -/

/-- `SOLID.RESYNC` (R163). DESIGN CHOICE (log entry 10): with `n` in 9..15, which no caller gives, it runs the pseudocode of
R163 as it stands: every LED is lit and `num_on` is `n`. -/
def execSolidResync (n : BitVec 4) (s : State) : Outcome State Fault Refusal :=
  .next (runSub (fun s => { s with dsp := resync n s.dsp }) s)

/-- `BLINKY.UPDATE` (R165). -/
def execBlinkyUpdate (newIdx : Option (BitVec 3)) (isFast : Bool) (now : Nat) (s : State) :
    Outcome State Fault Refusal :=
  .next (runSub (fun s => { s with dsp := blinky s.par newIdx isFast now s.dsp }) s)

/-- `BLINKY.TOGGLE` (R168). DESIGN CHOICE (log entry 10): with `bl_valid` 0 it runs the pseudocode of R168 as it stands. -/
def execBlinkyToggle (isFast : Bool) (s : State) : Outcome State Fault Refusal :=
  .next (runSub (fun s => { s with dsp := toggle s.par isFast s.dsp }) s)

/-- `ALL.UPDATE` (R171). -/
def execAllUpdate (now : Nat) (s : State) : Outcome State Fault Refusal :=
  .next (runSub (fun s => { s with dsp := allUpdate s.par now s.dsp }) s)

end Sys2Proof.Machine
end

