-- ==== Sys2Proof/Machine/Engine.lean ====
section
/-! DEFINITION. The engine unit: `ENG.UPDATE`, `ENG.ADDTIME`, `ENG.DIRECTIVE` (42_engine.md). -/

namespace Sys2Proof.Machine

open Host

/-! ### Adding time (R144) -/

/-- `add_time` on the budget. -/
def addTime (seg remaining : Nat) : Nat :=
  if 8 * seg ≤ remaining then seg else min (remaining + seg) (8 * seg)

/-- `call ENG.ADDTIME`. -/
def engAddTime (s : State) : State :=
  { s with eng := { s.eng with remaining := addTime s.par.segPeriod s.eng.remaining } }

/-- `ENG.ADDTIME` (R144). -/
def execEngAddtime (s : State) : Outcome State Fault Refusal :=
  .next (runCommand (fun s => respond .ok 0 (engAddTime s)) s)

/-! ### The render directive (R145, R146) -/

/-- The derivation from `(remaining, period, running)`: the first condition that holds decides. -/
def directiveOf (seg : Nat) (running : Bool) (r : Nat) : Directive :=
  let tilNext := r % seg
  let whole := r / seg
  if tilNext = 0 then
    if running = false then ⟨BitVec.ofNat 4 whole, .none⟩
    else if r = 0 then ⟨0, .all⟩
    else ⟨BitVec.ofNat 4 (whole - 1), .slow⟩
  else
    if running = false then ⟨BitVec.ofNat 4 (whole + 1), .none⟩
    else if tilNext ≤ seg / 3 then ⟨BitVec.ofNat 4 whole, .fast⟩
    else ⟨BitVec.ofNat 4 whole, .slow⟩

/-- `call ENG.DIRECTIVE`. -/
def State.directive (s : State) : Directive := directiveOf s.par.segPeriod s.eng.running s.eng.remaining

/-- `ENG.DIRECTIVE` (R146): the directive is the response, nothing is written. -/
def execEngDirective (s : State) : Outcome State Fault Refusal :=
  .next (runCommand (fun s => respond .ok s.directive.code s) s)

/-! ### The update (R141) -/

/-- Step 1, decay: both subtractions saturate (R142). -/
def decay (now : Nat) (s : State) : State :=
  if s.eng.running then
    { s with eng := { s.eng with remaining := satSub s.eng.remaining (satSub now s.eng.lastUpdate) } }
  else s

/-- `ENG.running <- not ENG.running`. -/
def toggleRunning (s : State) : State := { s with eng := { s.eng with running := !s.eng.running } }

/-- Step 3, the edges: only `Push` acts (R143). -/
def applyEdges (e0 e1 : ButtonEvent) (s : State) : State :=
  let s1 := if e0 = .push then toggleRunning s else s
  if e1 = .push then engAddTime s1 else s1

/-- Steps 1 to 3: decay, the two buttons, the edges. -/
def engineInputs (now : Nat) (s : State) : State :=
  let r0 := buttonUpdate .b0 now (decay now s)
  let r1 := buttonUpdate .b1 now r0.2
  applyEdges r0.1 r1.1 r1.2

/-- The whole update: inputs, directive, display, `last_update`. A fault of the display stops it before the last step
(R141, 60_exceptions.md R204). -/
def engUpdateRun (now : Nat) (s : State) : State :=
  let s3 := engineInputs now s
  let dir := s3.directive
  match frame s3.par dir.n dir.kind now s3.dsp with
  | .ok d => respond .ok 0 { s3 with dsp := d, eng := { s3.eng with lastUpdate := now } }
  | .error c => respond .fault 0 (raiseFatal c s3)

/-- `ENG.UPDATE` (R141). -/
def execEngUpdate (now : Nat) (s : State) : Outcome State Fault Refusal :=
  .next (runCommand (engUpdateRun now) s)

end Sys2Proof.Machine
end

