-- ==== Sys2Proof/Machine/Dispatch.lean ====
section
/-! DEFINITION. The meaning of every operation, one arm per constructor of Instr (30_encoding.md R76). -/

namespace Sys2Proof.Machine

open Host

def exec (i : Instr) (s : State) : Host.Outcome State Fault Refusal :=
  match i with
  | .clkInit => Sys2Proof.Machine.execClkInit s
  | .clkWait => Sys2Proof.Machine.execClkWait s
  | .clkNow => Sys2Proof.Machine.execClkNow s
  | .fclkNow => Sys2Proof.Machine.execFclkNow s
  | .btnUpdate b now => Sys2Proof.Machine.execBtnUpdate b now s
  | .engUpdate now => Sys2Proof.Machine.execEngUpdate now s
  | .engAddtime => Sys2Proof.Machine.execEngAddtime s
  | .engDirective => Sys2Proof.Machine.execEngDirective s
  | .dspUpdate n kind now => Sys2Proof.Machine.execDspUpdate n kind now s
  | .solidResync n => Sys2Proof.Machine.execSolidResync n s
  | .blinkyUpdate newIdx isFast now => Sys2Proof.Machine.execBlinkyUpdate newIdx isFast now s
  | .blinkyToggle isFast => Sys2Proof.Machine.execBlinkyToggle isFast s
  | .allUpdate now => Sys2Proof.Machine.execAllUpdate now s

end Sys2Proof.Machine
end

