-- ==== Sys2Proof/Machine/Port.lean ====
section
/-! DEFINITION. What moves next: the environment's events (00_scope.md R12), and the command port, which accepts a word
when no command is in progress (30_encoding.md R70, R77). -/

namespace Sys2Proof.Machine

open Host

/-- The environment's next move: the first listed one, or a free one (log entry 2). -/
def nextEvent (s : State) : Event × State :=
  match s.env.events with
  | e :: es => (e, { s with env := { s.env with events := es } })
  | [] => (Config.freeEvent s.env.drawn, { s with env := { s.env with drawn := s.env.drawn + 1 } })

/-- A word is presented while `cmd_ready_o = 1`: a word that names no operation is refused with `ILLEGAL`, or with `FAULT`
in the fault state, where the word is not looked at (R77 checks (1) and (2)); any other word runs its operation. -/
def acceptWord (w : Nat) (s : State) : Outcome State Fault Refusal :=
  match decode s.par.msW w with
  | .ok i => exec i s
  | .error _ => .next (runCommand (refuse .illegal) s)

/-- A step while no command is in progress. -/
def readyStep (s : State) : Outcome State Fault Refusal :=
  let r := nextEvent (endPulses s)
  match r.1 with
  | .command w => acceptWord w r.2
  | .contact b v => .next (setContact b v r.2)
  | .advance k => .next (hwtAdvance k r.2)
  | .reset => .next (resetBlock r.2)

/-- A step while `CLK.WAIT` is in progress: the environment moves, and the block polls the flag. A word presented now is
not accepted (R70, 93_implementation_defined.md U20); `rst_n` abandons the wait (70_reset_and_hazards.md R230). -/
def waitingStep (s : State) : State :=
  let r := nextEvent (endPulses s)
  match r.1 with
  | .command _ => pollWait r.2
  | .contact b v => pollWait (setContact b v r.2)
  | .advance k => pollWait (hwtAdvance k r.2)
  | .reset => resetBlock r.2

/-- The host's `TICK` (30_encoding.md R90): which `now()` a configuration has. -/
def tickRead (s : State) : Instr :=
  match s.par.variant with
  | .coarse => .clkNow
  | .fine => .fclkNow

/-- The value a response carries when its status is `OK`. -/
def okData (s : State) : Option Nat :=
  match s.rsp with
  | some ⟨.ok, d⟩ => some d
  | _ => none

/-- The host goes on with the data of an `OK` response, and stops at any other response or at a command in progress. -/
def onOk (o : Outcome State Fault Refusal) (go : Nat → State → Outcome State Fault Refusal) :
    Outcome State Fault Refusal :=
  match o with
  | .next s =>
    match okData s with
    | some d => go d s
    | none => .next s
  | .fault f => .fault f
  | .refused r => .refused r

/-- What the environment does between two commands of the host, as far as the later command can see it: the counts HWT has
advanced in all (40_clock.md R101), and the values the contacts have come to (10_state.md R41). -/
structure Interval where
  counts : Nat
  contacts : Contacts
deriving DecidableEq, Repr

/-- The state after such an interval: the response of the command before is over. -/
def between (i : Interval) (s : State) : State := hwtAdvance i.counts { endPulses s with contacts := i.contacts }

/-- The state in which the environment lists `e` as its next move. -/
def State.listing (e : Event) (s : State) : State := { s with env := { s.env with events := e :: s.env.events } }

/-- The environment's moves while a wait is in progress, one step of the wait for each, until the wait ends (R103, R104);
the moves that are left then are not used. -/
def waitThrough : List Event → State → State
  | [], s => s
  | e :: es, s =>
    if s.waiting then waitThrough es (waitingStep (s.listing e)) else s

/-- What the environment does during a `TICK`. -/
structure TickMoves where
  /-- while `CLK.WAIT` blocks -/
  whileWaiting : List Event
  /-- between `CLK.WAIT` and the variant's `now()` -/
  beforeNow : Interval
  /-- between `now()` and `ENG.UPDATE` -/
  beforeUpdate : Interval
deriving DecidableEq, Repr

/-- `CLK.WAIT` as the host sees it: accepted, and in progress until it ends. -/
def tickWait (moves : List Event) (s : State) : Outcome State Fault Refusal :=
  match exec .clkWait s with
  | .next t => .next (waitThrough moves t)
  | .fault f => .fault f
  | .refused r => .refused r

/-- `TICK` (R90): `CLK.WAIT`, then the variant's `now()`, then `ENG.UPDATE` with the value read. It is the host's program: it
goes on only after an `OK` response. R90 does not say what the environment does meanwhile, and R101 and R41 leave it free:
`m` is any. A wait that the moves of `m` do not end is left in progress. DEDUCED (log entry 21): no reset and no other
command comes between two of the three commands. -/
def tick (m : TickMoves) (s : State) : Outcome State Fault Refusal :=
  onOk (tickWait m.whileWaiting s) fun _ s1 =>
    onOk (exec (tickRead s1) (between m.beforeNow s1)) fun now s2 =>
      exec (.engUpdate now) (between m.beforeUpdate s2)

/-- `TICK` again and again, each after an interval: as many of them as the list has (R90: "for ever"). -/
def hostLoop : List (Interval × TickMoves) → State → Outcome State Fault Refusal
  | [], s => .next s
  | (i, m) :: ms, s => onOk (tick m (between i s)) fun _ t => hostLoop ms t

/-- The host's program (R90): `CLK.INIT` once, a check that it returned `clk_valid = 1`, then `TICK` for ever. -/
def hostProgram (ms : List (Interval × TickMoves)) (s : State) : Outcome State Fault Refusal :=
  onOk (exec .clkInit s) fun clkValid t => if clkValid = 1 then hostLoop ms t else .next t

end Sys2Proof.Machine
end

