-- ==== Sys2Proof/Machine/Step.lean ====
section
/-! DEFINITION. One step of the machine: an agent's next move, with the block's whole reaction to it. A command word that is
accepted is decoded and its operation runs to completion in the same step (20_memory.md R56), but for a `CLK.WAIT` that
finds no wrap, which stays in progress. -/

namespace Sys2Proof.Machine

open Host

def step (s : State) : Host.Outcome State Fault Refusal :=
  if s.waiting then .next (waitingStep s) else readyStep s

/-- `s` with a command word presented as the environment's next move, and no command in progress, so that the next step
accepts exactly this word (30_encoding.md R70). -/
def State.withFetchWord (s : State) (nbits w : Nat) : State :=
  { s with waiting := false, env := { s.env with events := .command (w % 2 ^ nbits) :: s.env.events } }

end Sys2Proof.Machine
end

