-- ==== Sys2Proof/Safety.lean ====
section
/-! DEFINITION. The terms claims are stated in: the invariants of the state (10_state.md R39 and the rules each one cites),
the names of the button's states (R25), and what a run of commands answers. -/

namespace Sys2Proof.Machine

open Host

/-! ### Invariants -/

/-- Every `Ms` register and the response data hold an `MS_W`-bit value (00_scope.md R11). -/
structure RangeInv (s : State) : Prop where
  msAcc : s.clk.msAcc < 2 ^ s.par.msW
  debUntil0 : s.btn0.debUntil < 2 ^ s.par.msW
  debUntil1 : s.btn1.debUntil < 2 ^ s.par.msW
  remaining : s.eng.remaining < 2 ^ s.par.msW
  lastUpdate : s.eng.lastUpdate < 2 ^ s.par.msW
  blNext : s.dsp.blNext < 2 ^ s.par.msW
  allNext : s.dsp.allNext < 2 ^ s.par.msW
  data : ∀ r, s.rsp = some r → r.data < 2 ^ s.par.msW

/-- `ENG.remaining <= 8 * SEG_PERIOD` (10_state.md R27, R39; 42_engine.md R150). -/
def EngineInv (s : State) : Prop := s.eng.remaining ≤ 8 * s.par.segPeriod

/-- `fault_cause` is `'b00` while `fault = 0`, and one of the two causes while `fault = 1` (10_state.md R38, R39). -/
structure FaultInv (s : State) : Prop where
  quiet : s.fault = false → s.faultCause = 0
  raised : s.fault = true → s.faultCause = FaultCause.solidRange.code ∨ s.faultCause = FaultCause.blinkIndex.code

/-- The clock unit and HWT: the accumulator of the variant that is not built stays 0 (10_state.md R21, R22); a valid clock
has a reload count in range (40_clock.md R102), and its samples lie in `0 .. MAX_COUNT` (R39, R101); in the fine variant a
clear flag means that no wrap came since the last read (R108 case b). -/
structure ClockInv (s : State) : Prop where
  coarse_fticks : s.par.variant = .coarse → s.clk.fticks = 0
  coarse_lastRead : s.par.variant = .coarse → s.clk.lastRead = 0
  fine_msAcc : s.par.variant = .fine → s.clk.msAcc = 0
  reload_ok : s.clk.clkValid = true → reloadOk s.par = true
  lastRead_le : s.clk.clkValid = true → s.clk.lastRead.toNat ≤ maxCount s.par
  phase_le : s.clk.clkValid = true → s.hwt.phase.toNat ≤ maxCount s.par
  fine_flag : s.par.variant = .fine → s.clk.clkValid = true → s.hwt.wrapf = false →
    s.clk.lastRead.toNat ≤ s.hwt.phase.toNat

/-- A button whose delay is 0 never stores a deadline (41_button.md R123, R124). -/
def ButtonInv (s : State) : Prop :=
  ∀ b : BtnId, debounceDelay s.par b = 0 → (s.btn b).debValid = false

/-- The display (10_state.md R39, 43_display.md R170 (a), R171): the solid count is at most 8; in `All` mode nothing
blinks and every LED shows the flag; otherwise the blinking LED is the one at the solid count, and every other LED at or
above the solid count is off. -/
structure DisplayInv (s : State) : Prop where
  numOn_le : s.dsp.numOn.toNat ≤ 8
  all_noBlink : s.dsp.wasAll = true → s.dsp.blValid = false
  all_lockstep : s.dsp.wasAll = true → ∀ i < 8, s.dsp.led.getLsbD i = s.dsp.allOn
  blink_at : s.dsp.wasAll = false → s.dsp.blValid = true → s.dsp.blIdx.toNat = s.dsp.numOn.toNat
  above_off : s.dsp.wasAll = false → ∀ i < 8, s.dsp.numOn.toNat ≤ i →
    ¬(s.dsp.blValid = true ∧ s.dsp.blIdx.toNat = i) → s.dsp.led.getLsbD i = false

/-- A command in progress is a `CLK.WAIT` of a valid clock, outside the fault state, that has not answered
(30_encoding.md R70, R77). -/
structure PortInv (s : State) : Prop where
  waiting_clock : s.waiting = true → s.clk.clkValid = true
  waiting_noFault : s.waiting = true → s.fault = false
  waiting_noResponse : s.waiting = true → s.rsp = none

/-! ### Names of states -/

/-- `Idle(level)` (10_state.md R25). -/
def Btn.IsIdle (B : Btn) (level : Bool) : Prop := B.debValid = false ∧ B.level = level

/-- `Debouncing(level, until)` (10_state.md R25). -/
def Btn.IsDebouncing (B : Btn) (level : Bool) (deadline : Nat) : Prop :=
  B.debValid = true ∧ B.level = level ∧ B.debUntil = deadline

/-- A response with status `OK`. -/
def State.answers (s : State) (data : Nat) : Prop := s.rsp = some ⟨.ok, data⟩

/-! ### The moves of HWT in a step (40_clock.md R101) -/

/-- A move of HWT: the counter before it, and the counts it advances. -/
abbrev HwtMove := Hwt × Nat

/-- The move in the next gap between two port primitives. -/
def gapMove (s : State) : HwtMove := (s.hwt, gapCount s)

/-- The move in a poll: a coarse wait that finds the flag set has a gap before it clears the flag (R103). -/
def pollMoves (s : State) : List HwtMove :=
  if peekWrapFlag s && decide (s.par.variant = .coarse) then [gapMove s] else []

/-- The moves in the two gaps of the double read (R107). -/
def readMoves (s : State) : List HwtMove := [gapMove s, gapMove (readClearWrapFlag (hwtGap s)).2]

/-- The moves inside an operation: only a `CLK.WAIT` and an `FCLK.NOW` that run have gaps. -/
def operationMoves (i : Instr) (s : State) : List HwtMove :=
  let runs := !s.fault && s.clk.clkValid
  match i with
  | .clkWait => if runs then pollMoves s else []
  | .fclkNow => if runs && decide (s.par.variant = .fine) then readMoves s else []
  | .clkInit => []
  | .clkNow => []
  | .btnUpdate _ _ => []
  | .engUpdate _ => []
  | .engAddtime => []
  | .engDirective => []
  | .dspUpdate _ _ _ => []
  | .solidResync _ => []
  | .blinkyUpdate _ _ _ => []
  | .blinkyToggle _ => []
  | .allUpdate _ => []

/-- Every move of HWT in the next step, in order: the environment's own, and those in gaps. -/
def hwtMoves (s : State) : List HwtMove :=
  let r := nextEvent (endPulses s)
  match r.1 with
  | .command w =>
    if s.waiting then pollMoves r.2
    else match decode s.par.msW w with
      | .ok i => operationMoves i r.2
      | .error _ => []
  | .contact _ _ => if s.waiting then pollMoves r.2 else []
  | .advance k => (s.hwt, k) :: (if s.waiting then pollMoves (hwtAdvance k r.2) else [])
  | .reset => []

/-- The move takes HWT past `MAX_COUNT`. -/
def HwtMove.passes (max : Nat) (m : HwtMove) : Prop := max < m.1.phase.toNat + m.2

/-- In the next step HWT moves past `MAX_COUNT`. -/
def State.hwtPasses (s : State) : Prop := ∃ m ∈ hwtMoves s, m.passes (maxCount s.par)

/-! ### Runs (40_clock.md R101, liveness; 70_reset_and_hazards.md R251) -/

/-- An infinite run of the machine in its environment: between two steps the environment may list any further moves, so the
record `env`, which holds them and is not the block's, is free there (log entry 20). -/
def IsRun (r : Nat → State) : Prop := ∀ n, ∃ t env, step (r n) = .next t ∧ r (n + 1) = { t with env := env }

/-- HWT is not starved from step `n` on: in some later step it moves past `MAX_COUNT`. -/
def HwtServed (r : Nat → State) (n : Nat) : Prop := ∃ m, n ≤ m ∧ (r m).hwtPasses

/-- A fair run (R101: "in every fair run HWT eventually advances past `MAX_COUNT`"; R251): from every step on, HWT some time
moves past `MAX_COUNT`. -/
def FairRun (r : Nat → State) : Prop := IsRun r ∧ ∀ n, HwtServed r n

/-- The wait in progress ends in the step from `r m`: with its response, or cut short by reset. -/
def WaitEndsAt (r : Nat → State) (m : Nat) : Prop :=
  (r m).waiting = true ∧ (r (m + 1)).waiting = false ∧
    ((r (m + 1)).answers 0 ∨ (nextEvent (r m)).1 = .reset)

/-- The counts HWT advances in a list of moves. -/
def advanceTotal : List Event → Nat
  | [] => 0
  | .advance k :: es => k + advanceTotal es
  | .command _ :: es => advanceTotal es
  | .contact _ _ :: es => advanceTotal es
  | .reset :: es => advanceTotal es

/-! ### Runs of commands -/

/-- The operations of a list, one after another. -/
def execMany : List Instr → State → Outcome State Fault Refusal
  | [], s => .next s
  | i :: is, s =>
    match exec i s with
    | .next t => execMany is t
    | .fault f => .fault f
    | .refused r => .refused r

/-- The responses to a list of `BTN.UPDATE`s of one button, each with its `now` and the value of the contact. -/
def buttonReplies (b : BtnId) : List (Nat × Bool) → State → List (Option Response)
  | [], _ => []
  | (now, p) :: us, s =>
    match exec (.btnUpdate b now) (setContact b p s) with
    | .next t => t.rsp :: buttonReplies b us t
    | .fault _ => []
    | .refused _ => []

end Sys2Proof.Machine
end

