-- ==== Sys2Proof/Certificates/Slice0/Obligations.lean ====
section
/-! DEFINITION. The statements for the provers. Each docstring names the rule of spec/ it formalises. A next state is given as
a record update of the state before, so that every field the update does not name is unchanged: that is the frame. -/

open Sys2Proof Sys2Proof.Machine Host

/-! ### Encoding and the command port (30_encoding.md) -/

/-- R82, R76: words written out in the spec's encoding decode to the operations they stand for, and the words of an internal
operation and of a nonzero `z` decode to none and are refused with `ILLEGAL`. -/
def Obligations.SampleWordsDecode : Prop :=
  decodeTableWord 80 0x50000000000000003E8 = some (.engUpdate 1000) ∧
  decodeTableWord 80 0x4010000000000000014 = some (.btnUpdate .b1 20) ∧
  decodeTableWord 80 0x80E0000000000000100 = some (.dspUpdate 3 .slow 256) ∧
  decodeTableWord 80 0x0000000000000000000 = some .clkInit ∧
  decodeTableWord 80 0x1000000000000000000 = some .clkWait ∧
  decodeTableWord 80 0x2000000000000000000 = some .clkNow ∧
  decodeTableWord 80 0x3000000000000000000 = some .fclkNow ∧
  decodeTableWord 80 0x6000000000000000000 = some .engAddtime ∧
  decodeTableWord 80 0x7000000000000000000 = some .engDirective ∧
  decodeTableWord 80 0x9000000000000000000 = none ∧
  decodeTableWord 80 0x5400000000000000001 = none ∧
  ∀ s : State, s.fault = false → s.par.msW = 64 →
    acceptWord 0x9000000000000000000 s = .next { s with rsp := some ⟨.illegal, 0⟩ } ∧
    acceptWord 0x5400000000000000001 s = .next { s with rsp := some ⟨.illegal, 0⟩ }

/-- R71 to R73: for every width of `Ms`, the word of a well-formed host command decodes to it, with every operand. -/
def Obligations.EncodedCommandDecodesBack : Prop :=
  ∀ (msW : Nat) (i : Instr), i.wellFormed msW = true → i.hostCommand = true →
    decode msW (encode msW i) = .ok i

/-- R71 to R73: a word that decodes is the word of the operation it decodes to, which is a well-formed host command. So no
two words name one operation, and no bit of a word is ignored. -/
def Obligations.DecodedWordIsTheCommandsWord : Prop :=
  ∀ (msW w : Nat) (i : Instr), decode msW w = .ok i →
    encode msW i = w ∧ i.wellFormed msW = true ∧ i.hostCommand = true

/-- R77 check (2), R72, R79: the words of the port that name no operation are exactly those with an internal or reserved
code, a nonzero `z`, or a nonzero must-be-zero part of `a` or `t` for the format of the code. -/
def Obligations.IllegalWordsAreExactlyThese : Prop :=
  ∀ msW w : Nat, w < 2 ^ (msW + 12) →
    ((∃ e, decode msW w = .error e) ↔
      (9 ≤ fieldOp msW w ∨ fieldZ msW w ≠ 0 ∨
        ((fieldOp msW w ≤ 3 ∨ fieldOp msW w = 6 ∨ fieldOp msW w = 7) ∧
          (fieldA msW w ≠ 0 ∨ fieldT msW w ≠ 0)) ∨
        (fieldOp msW w = 5 ∧ fieldA msW w ≠ 0) ∨
        (fieldOp msW w = 4 ∧ 2 ≤ fieldA msW w)))

/-- R79, R78: outside the fault state, a word that names no operation is answered `ILLEGAL`, and nothing else changes but
that the pulses of the step before are over. For a number wider than the port's `MS_W + 12` bits this is the model's choice
(log entry 17). -/
def Obligations.IllegalWordIsRefusedUnchanged : Prop :=
  ∀ (s : State) (w : Nat) (rest : List Event) (e : DecodeError),
    s.waiting = false → s.fault = false → s.env.events = .command w :: rest → decode s.par.msW w = .error e →
    step s = .next { s with env := { s.env with events := rest }, rsp := some ⟨.illegal, 0⟩, wrapClr := false }

/-- R70: when the block is ready and the next word decodes to `i`, a step accepts the word and runs `i` on the state in
which the word is taken and the pulses of the step before are over. -/
def Obligations.StepRunsTheDecodedOperation : Prop :=
  ∀ (s : State) (w : Nat) (rest : List Event) (i : Instr),
    s.waiting = false → s.env.events = .command w :: rest → decode s.par.msW w = .ok i →
    step s = exec i { s with env := { s.env with events := rest }, rsp := none, wrapClr := false }

/-- R205: in the fault state every command word, legal or not, is answered `FAULT`, and nothing else changes but
that a pulse of the step before is over. -/
def Obligations.FaultStateRefusesEveryWord : Prop :=
  ∀ (s : State) (w : Nat) (rest : List Event),
    s.waiting = false → s.fault = true → s.env.events = .command w :: rest →
    step s = .next { s with env := { s.env with events := rest }, rsp := some ⟨.fault, 0⟩, wrapClr := false }

/-- R205, R210: an operation run in the fault state changes nothing: a host command answers `FAULT`, a sub-operation does
not run (the latter clause is the model's choice, log entry 10). -/
def Obligations.FaultedOperationChangesNothing : Prop :=
  ∀ (i : Instr) (s : State), s.fault = true →
    exec i s = .next (if i.hostCommand then { s with rsp := some ⟨.fault, 0⟩ } else s)

/-- R81, R77 checks (3) and (4): the `now()` of the other variant is `ILLEGAL` whether or not there is a clock. -/
def Obligations.OtherVariantsNowIsIllegal : Prop :=
  ∀ s : State, s.fault = false →
    (s.par.variant = .fine → exec .clkNow s = .next { s with rsp := some ⟨.illegal, 0⟩ }) ∧
    (s.par.variant = .coarse → exec .fclkNow s = .next { s with rsp := some ⟨.illegal, 0⟩ })

/-- R77 check (4), R202: without a clock the three clock commands are answered `NOCLOCK`, and nothing else changes. -/
def Obligations.ClockCommandsNeedAClock : Prop :=
  ∀ s : State, s.fault = false → s.clk.clkValid = false →
    exec .clkWait s = .next { s with rsp := some ⟨.noclock, 0⟩ } ∧
    (s.par.variant = .coarse → exec .clkNow s = .next { s with rsp := some ⟨.noclock, 0⟩ }) ∧
    (s.par.variant = .fine → exec .fclkNow s = .next { s with rsp := some ⟨.noclock, 0⟩ })

/-- R252, R77: a step always answers a next state: the machine never stops. -/
def Obligations.EveryStepHasANextState : Prop :=
  ∀ s : State, ∃ t, step s = .next t

/-! ### The clock unit (40_clock.md) -/

/-- R102: `CLK.INIT`, code `0x0`, produces a clock exactly when `floor(F_OSC_HZ * TICK_PERIOD / 1000)` is in
`1 .. 2^24 - 1`. The clock starts from 0 and `reload_o` of the next state is that value; without a clock, the clock commands
are then refused with `NOCLOCK`. Whether `wrap_clr_o` gives a pulse is left open here. -/
def Obligations.ClkInitProducesAClockInRange : Prop :=
  ∀ s : State, s.fault = false →
    decode s.par.msW (packWord s.par.msW 0x0 0 0) = .ok .clkInit ∧
    ((1 ≤ s.par.fOsc * s.par.tickPeriod / 1000 ∧ s.par.fOsc * s.par.tickPeriod / 1000 ≤ 16777215) →
      ∃ t, exec .clkInit s = .next t ∧
        t = { s with
          clk := { clkValid := true, msAcc := 0, fticks := 0, lastRead := 0 },
          hwt := { phase := 0, wrapf := false }, rsp := some ⟨.ok, 1⟩, wrapClr := t.wrapClr } ∧
        ∃ c, t.reloadO = some c ∧ c.toNat = s.par.fOsc * s.par.tickPeriod / 1000) ∧
    ((s.par.fOsc * s.par.tickPeriod / 1000 < 1 ∨ 16777215 < s.par.fOsc * s.par.tickPeriod / 1000) →
      let t := { s with clk := { s.clk with clkValid := false }, rsp := some ⟨.ok, 0⟩ }
      exec .clkInit s = .next t ∧ exec .clkWait t = .next { t with rsp := some ⟨.noclock, 0⟩ } ∧
      (s.par.variant = .coarse → exec .clkNow t = .next { t with rsp := some ⟨.noclock, 0⟩ }) ∧
      (s.par.variant = .fine → exec .fclkNow t = .next { t with rsp := some ⟨.noclock, 0⟩ }))

/-- R103: with the flag set the coarse wait ends at once: one `TICK_PERIOD` is added modulo `2^MS_W`, the flag is cleared by
the pulse `wrap_clr_o` (R42),
HWT may have moved in the gap between peek and read; with the flag clear the command stays in progress. -/
def Obligations.CoarseWaitAddsOnePeriod : Prop :=
  ∀ s : State, s.fault = false → s.par.variant = .coarse → s.clk.clkValid = true →
    (s.hwt.wrapf = true → ∃ (k : Nat) (env : Env),
      exec .clkWait s = .next { s with
        clk := { s.clk with msAcc := (s.clk.msAcc + s.par.tickPeriod) % 2 ^ s.par.msW },
        hwt := { phase := (s.hwt.advance (maxCount s.par) k).phase, wrapf := false },
        waiting := false, rsp := some ⟨.ok, 0⟩, wrapClr := true, env := env } ∧
      env.events = s.env.events ∧
      ∀ d ds, s.env.draws = d :: ds → k = d ∧ env = { s.env with draws := ds }) ∧
    (s.hwt.wrapf = false → exec .clkWait s = .next { s with waiting := true, rsp := none })

/-- R104: the fine wait only peeks: with the flag set it ends at once and neither the flag nor an accumulator changes; with
the flag clear it stays in progress. -/
def Obligations.FineWaitOnlyPeeks : Prop :=
  ∀ s : State, s.fault = false → s.par.variant = .fine → s.clk.clkValid = true →
    (s.hwt.wrapf = true → exec .clkWait s = .next { s with waiting := false, rsp := some ⟨.ok, 0⟩ }) ∧
    (s.hwt.wrapf = false → exec .clkWait s = .next { s with waiting := true, rsp := none })

/-- R103, R104, R101, R251: a wait in progress, with the flag clear, ends in the step in which HWT passes `MAX_COUNT`, with
the pulse `wrap_clr_o` only in the coarse variant; it goes on in a step in which HWT advances without a wrap and in one in
which a contact changes. In a run a wait ends, with its response or by reset, once HWT passes `MAX_COUNT`; so in a fair run
every wait ends. That the block polls once after each move, and so ends in the very step of the wrap, is DEDUCED (log entry
9). What a run is, is log entry 20. -/
def Obligations.WaitEndsWhenTheCounterWraps : Prop :=
  (∀ (s : State) (k : Nat) (rest : List Event),
    s.waiting = true → s.hwt.wrapf = false → s.env.events = .advance k :: rest →
    (maxCount s.par < s.hwt.phase.toNat + k →
      ∃ t, step s = .next t ∧ t.waiting = false ∧ t.answers 0 ∧ t.env.events = rest ∧
        (s.par.variant = .coarse → t.hwt.wrapf = false ∧ t.wrapClr = true ∧
          t.clk = { s.clk with msAcc := (s.clk.msAcc + s.par.tickPeriod) % 2 ^ s.par.msW }) ∧
        (s.par.variant = .fine → t.hwt.wrapf = true ∧ t.wrapClr = false ∧ t.clk = s.clk)) ∧
    (s.hwt.phase.toNat + k ≤ maxCount s.par →
      ∃ t, step s = .next t ∧ t.waiting = true ∧ t.rsp = none ∧ t.wrapClr = false ∧ t.clk = s.clk ∧
        t.hwt.wrapf = false ∧ t.hwt.phase.toNat = (s.hwt.phase.toNat + k) % 2 ^ 24)) ∧
  (∀ (s : State) (b : BtnId) (v : Bool) (rest : List Event),
    s.waiting = true → s.hwt.wrapf = false → s.env.events = .contact b v :: rest →
    step s = .next (setContact b v
      { s with env := { s.env with events := rest }, rsp := none, wrapClr := false })) ∧
  (∀ (r : Nat → State) (n : Nat), IsRun r → (r n).waiting = true → HwtServed r n →
    ∃ m, n ≤ m ∧ WaitEndsAt r m) ∧
  (∀ (r : Nat → State) (n : Nat), FairRun r → (r n).waiting = true → ∃ m, n ≤ m ∧ WaitEndsAt r m)

/-- R70 and 93_implementation_defined.md U20: a word presented while a wait is in progress and the flag is clear is not
accepted: it is gone, and nothing else changes but that the pulses of the step before are over. -/
def Obligations.WaitIgnoresPresentedWords : Prop :=
  ∀ (s : State) (w : Nat) (rest : List Event),
    s.waiting = true → s.hwt.wrapf = false → s.env.events = .command w :: rest →
    step s = .next { s with env := { s.env with events := rest }, rsp := none, wrapClr := false }

/-- R105: `CLK.NOW` returns the accumulator and writes nothing. -/
def Obligations.CoarseNowReturnsTheAccumulator : Prop :=
  ∀ s : State, s.fault = false → s.par.variant = .coarse → s.clk.clkValid = true → RangeInv s →
    exec .clkNow s = .next { s with rsp := some ⟨.ok, s.clk.msAcc⟩ }

/-- R107: the double read, with the flag cleared by the pulse `wrap_clr_o` (R42). `h1` and `h2` are HWT after the gap before the flag read and after the gap before the second
sample; the delta is the exact integer of the branch, added to the 64-bit accumulator. -/
def Obligations.FineNowDoubleRead : Prop :=
  ∀ s : State, s.fault = false → s.par.variant = .fine → s.clk.clkValid = true →
    ∃ (k1 k2 : Nat) (env : Env),
      let h1 := s.hwt.advance (maxCount s.par) k1
      let h2 := { h1 with wrapf := false }.advance (maxCount s.par) k2
      let s1 : Int := s.hwt.phase.toNat
      let s2 : Int := h2.phase.toNat
      let last : Int := s.clk.lastRead.toNat
      let delta : Int := if h1.wrapf = true ∨ s2 < s1 then ((maxCount s.par : Int) - last) + s2 else s2 - last
      let fticks := s.clk.fticks + BitVec.ofInt 64 delta
      exec .fclkNow s = .next { s with
        clk := { s.clk with fticks := fticks, lastRead := h2.phase }, hwt := h2, wrapClr := true, env := env,
        rsp := some ⟨.ok, ticksToMs s.par fticks.toNat % 2 ^ s.par.msW⟩ } ∧
      env.events = s.env.events ∧
      ∀ d e ds, s.env.draws = d :: e :: ds → k1 = d ∧ k2 = e ∧ env = { s.env with draws := ds }

/-- R108 cases (a) and (b): whatever HWT does, the delta of `FCLK.NOW` is not negative, and it is at most two full ticks. -/
def Obligations.FineDeltaIsNeverNegative : Prop :=
  ∀ s : State, s.fault = false → s.par.variant = .fine → s.clk.clkValid = true → ClockInv s →
    ∃ (t : State) (delta : Nat), exec .fclkNow s = .next t ∧ delta ≤ 2 * maxCount s.par ∧
      t.clk.fticks.toNat = (s.clk.fticks.toNat + delta) % 2 ^ 64

/-- R108 case (b): when the flag is clear and HWT does not wrap up to the second sample, the delta is exactly the counts
since the last read. -/
def Obligations.FineDeltaIsExactWithoutAWrap : Prop :=
  ∀ (s : State) (k1 k2 : Nat) (ds : List Nat),
    s.fault = false → s.par.variant = .fine → s.clk.clkValid = true → ClockInv s →
    s.env.draws = k1 :: k2 :: ds → s.hwt.wrapf = false → s.hwt.phase.toNat + k1 + k2 ≤ maxCount s.par →
    ∃ t, exec .fclkNow s = .next t ∧
      t.clk.fticks = s.clk.fticks + BitVec.ofNat 64 (s.hwt.phase.toNat + k1 + k2 - s.clk.lastRead.toNat) ∧
      t.clk.lastRead.toNat = s.hwt.phase.toNat + k1 + k2

/-- R108 case (c), under premise P-FINE-1 (`k1 + k2 <= MAX_COUNT`): when exactly one wrap falls in the interval since the
last read, wherever in it, the delta is one count short. First for a read that follows an advance of HWT by `k` in a state
with no wrap since the last flag read; then for the interval between two commands, from the end of a `CLK.INIT` or
`FCLK.NOW` to the second sample of the next `FCLK.NOW`. -/
def Obligations.FineDeltaIsOneShortPerWrap : Prop :=
  (∀ (s : State) (k k1 k2 : Nat) (ds : List Nat),
    s.fault = false → s.par.variant = .fine → s.clk.clkValid = true → ClockInv s →
    s.env.draws = k1 :: k2 :: ds → s.hwt.wrapf = false → k1 + k2 ≤ maxCount s.par →
    maxCount s.par < s.hwt.phase.toNat + k + k1 + k2 →
    s.hwt.phase.toNat + k + k1 + k2 ≤ 2 * maxCount s.par + 1 →
    ∃ u, exec .fclkNow (hwtAdvance k s) = .next u ∧
      u.clk.fticks = s.clk.fticks +
        BitVec.ofNat 64 (s.hwt.phase.toNat + k + k1 + k2 - s.clk.lastRead.toNat - 1) ∧
      u.clk.lastRead.toNat = s.hwt.phase.toNat + k + k1 + k2 - (maxCount s.par + 1)) ∧
  (∀ (s t : State) (i : Instr) (k k1 k2 : Nat) (ds : List Nat),
    s.fault = false → s.par.variant = .fine → ClockInv s → (i = .clkInit ∨ i = .fclkNow) →
    exec i s = .next t → t.clk.clkValid = true → t.hwt.wrapf = false →
    t.env.draws = k1 :: k2 :: ds → k1 + k2 ≤ maxCount s.par →
    maxCount s.par < t.clk.lastRead.toNat + (k + k1 + k2) →
    t.clk.lastRead.toNat + (k + k1 + k2) ≤ 2 * maxCount s.par + 1 →
    ∃ u, exec .fclkNow (hwtAdvance k t) = .next u ∧
      u.clk.fticks = t.clk.fticks + BitVec.ofNat 64 (k + k1 + k2 - 1) ∧
      u.clk.lastRead.toNat = t.clk.lastRead.toNat + (k + k1 + k2) - (maxCount s.par + 1))

/-- R110: a later `FCLK.NOW` returns no smaller value, however HWT advances in between, until the accumulator or the result
passes its width. -/
def Obligations.FineNowNeverDecreases : Prop :=
  ∀ (s t u : State) (k d1 d2 : Nat), s.fault = false → s.par.variant = .fine → s.clk.clkValid = true → ClockInv s →
    exec .fclkNow s = .next t → t.answers d1 → exec .fclkNow (hwtAdvance k t) = .next u → u.answers d2 →
    t.clk.fticks.toNat + 2 * maxCount s.par < 2 ^ 64 →
    ticksToMs s.par (t.clk.fticks.toNat + 2 * maxCount s.par) < 2 ^ s.par.msW →
    d1 ≤ d2

/-- R101: HWT advances by the total of two advances, with the flag set if either wraps, and its phase stays in
`0 .. MAX_COUNT`. A flag that is clear before a step and set after it is one that HWT has set in that step by moving past
`MAX_COUNT`. In a fair run HWT does so again and again: from every step on, some later step has a move of HWT that leaves
the flag set. What a run is, is log entry 20. -/
def Obligations.CounterAdvancesCompose : Prop :=
  (∀ (max j k : Nat) (h : Hwt), max < 2 ^ 24 → h.phase.toNat ≤ max →
    h.advance max (j + k) = (h.advance max j).advance max k ∧ (h.advance max j).phase.toNat ≤ max ∧
    ((h.advance max j).wrapf = true ↔ h.wrapf = true ∨ max < h.phase.toNat + j)) ∧
  (∀ s t : State, step s = .next t → s.hwt.wrapf = false → t.hwt.wrapf = true → s.hwtPasses) ∧
  (∀ (r : Nat → State) (n : Nat), FairRun r →
    ∃ m, n ≤ m ∧ ∃ move ∈ hwtMoves (r m), maxCount (r m).par < move.1.phase.toNat + move.2 ∧
      (move.1.advance (maxCount (r m).par) move.2).wrapf = true)

/-! ### The button unit (41_button.md) -/

/-- R124: the complete transition table of one `BTN.UPDATE`, one clause a row, with the response code of R26. -/
def Obligations.ButtonTransitionTable : Prop :=
  ∀ (s : State) (b : BtnId) (now : Nat), s.fault = false → ButtonInv s →
    let D := debounceDelay s.par b
    let u := (now + D) % 2 ^ s.par.msW
    let p := samplePressed b s
    ((s.btn b).debValid = true → 0 < D) ∧
    ∃ (t : State) (c : Nat) (B : Btn), exec (.btnUpdate b now) s = .next t ∧
      t = { s.setBtn b B with rsp := some ⟨.ok, c⟩ } ∧
      ((s.btn b).IsIdle false → p = false → c = 0 ∧ B.IsIdle false) ∧
      ((s.btn b).IsIdle false → 0 < D → p = true → c = 3 ∧ B.IsDebouncing true u) ∧
      ((s.btn b).IsIdle false → D = 0 → p = true → c = 3 ∧ B.IsIdle true) ∧
      ((s.btn b).IsIdle true → p = true → c = 2 ∧ B.IsIdle true) ∧
      ((s.btn b).IsIdle true → 0 < D → p = false → c = 1 ∧ B.IsDebouncing false u) ∧
      ((s.btn b).IsIdle true → D = 0 → p = false → c = 1 ∧ B.IsIdle false) ∧
      (∀ d, (s.btn b).IsDebouncing false d → now < d → c = 0 ∧ B.IsDebouncing false d) ∧
      (∀ d, (s.btn b).IsDebouncing true d → now < d → c = 2 ∧ B.IsDebouncing true d) ∧
      (∀ d, (s.btn b).IsDebouncing false d → d ≤ now → p = false → c = 0 ∧ B.IsIdle false) ∧
      (∀ d, (s.btn b).IsDebouncing false d → d ≤ now → p = true → c = 3 ∧ B.IsDebouncing true u) ∧
      (∀ d, (s.btn b).IsDebouncing true d → d ≤ now → p = true → c = 2 ∧ B.IsIdle true) ∧
      (∀ d, (s.btn b).IsDebouncing true d → d ≤ now → p = false → c = 1 ∧ B.IsDebouncing false u)

/-- R122, R121: a hold takes no sample: for every value of both contacts it answers the level event of the remembered level
and changes nothing else. -/
def Obligations.HoldTakesNoSample : Prop :=
  ∀ (s : State) (b : BtnId) (now : Nat) (contacts : Contacts),
    s.fault = false → (s.btn b).debValid = true → now < (s.btn b).debUntil →
    exec (.btnUpdate b now) { s with contacts := contacts } =
      .next { s with contacts := contacts, rsp := some ⟨.ok, if (s.btn b).level then 2 else 0⟩ }

/-- R123: with a delay of 0 every sample is trusted: the level becomes the sample, no deadline is stored, and the event is an
edge exactly when the sample differs from the level. -/
def Obligations.ZeroDelayTrustsEverySample : Prop :=
  ∀ (s : State) (b : BtnId) (now : Nat), s.fault = false → ButtonInv s → debounceDelay s.par b = 0 →
    exec (.btnUpdate b now) s = .next { s.setBtn b { s.btn b with level := samplePressed b s } with
      rsp := some ⟨.ok, (if samplePressed b s then 2 else 0) +
        (if samplePressed b s = (s.btn b).level then 0 else 1)⟩ }

/-- R125: after an edge at `t0`, every update with `t0 <= now < t0 + D` is a hold and answers a level event, whatever the
contact does: two edges of one button are never reported at `now` values less than `D` apart. -/
def Obligations.EdgesAreOneWindowApart : Prop :=
  ∀ (s t : State) (b : BtnId) (t0 c : Nat) (us : List (Nat × Bool)), s.fault = false →
    exec (.btnUpdate b t0) s = .next t → t.answers c → (c = 1 ∨ c = 3) →
    0 < debounceDelay s.par b → t0 + debounceDelay s.par b < 2 ^ s.par.msW →
    (∀ u ∈ us, t0 ≤ u.1 ∧ u.1 < t0 + debounceDelay s.par b) →
    (buttonReplies b us t).length = us.length ∧
      ∀ r ∈ buttonReplies b us t, r = some ⟨.ok, 0⟩ ∨ r = some ⟨.ok, 2⟩

/-! ### The engine unit (42_engine.md) -/

/-- R144: `ENG.ADDTIME`, code `0x6`, resets a full budget to one `SEG_PERIOD`, and otherwise adds one, clamped to eight. -/
def Obligations.AddTimePolicy : Prop :=
  ∀ s : State, s.fault = false →
    decode s.par.msW (packWord s.par.msW 0x6 0 0) = .ok .engAddtime ∧
    (8 * s.par.segPeriod ≤ s.eng.remaining → exec .engAddtime s = .next { s with
      eng := { s.eng with remaining := s.par.segPeriod }, rsp := some ⟨.ok, 0⟩ }) ∧
    (s.eng.remaining < 8 * s.par.segPeriod → exec .engAddtime s = .next { s with
      eng := { s.eng with remaining := min (s.eng.remaining + s.par.segPeriod) (8 * s.par.segPeriod) },
      rsp := some ⟨.ok, 0⟩ })

/-- R144 and 95_test_vectors.md section 1.3, for every `SEG_PERIOD`: from an empty budget `k` presses, `k` up to 8, give
`k` segments, and the ninth gives one segment again. -/
def Obligations.NinthAddTimeWrapsToOneSegment : Prop :=
  ∀ s : State, s.fault = false → s.eng.remaining = 0 →
    (∀ k, k ≤ 8 → ∃ t, execMany (List.replicate k .engAddtime) s = .next t ∧
      t.eng = { s.eng with remaining := k * s.par.segPeriod }) ∧
    ∃ t, execMany (List.replicate 9 .engAddtime) s = .next t ∧
      t.eng = { s.eng with remaining := s.par.segPeriod }

/-- R146, R148: the six cases of the render directive, code `0x7`, each with its response `{n, kind}`; nothing is written.
That the response is its low `MS_W` bits, which drops a bit where `MS_W` is 4 or 5, is DEDUCED (log entry 8). -/
def Obligations.DirectiveCases : Prop :=
  ∀ s : State, s.fault = false → EngineInv s →
    let r := s.eng.remaining
    let seg := s.par.segPeriod
    decode s.par.msW (packWord s.par.msW 0x7 0 0) = .ok .engDirective ∧
    ∃ n kind : Nat,
      exec .engDirective s = .next { s with rsp := some ⟨.ok, (n * 4 + kind) % 2 ^ s.par.msW⟩ } ∧
      (r % seg = 0 → s.eng.running = false → n = r / seg ∧ kind = 0) ∧
      (r = 0 → s.eng.running = true → n = 0 ∧ kind = 3) ∧
      (r % seg = 0 → 0 < r → s.eng.running = true → n + 1 = r / seg ∧ kind = 2) ∧
      (r % seg ≠ 0 → s.eng.running = false → n = r / seg + 1 ∧ kind = 0) ∧
      (r % seg ≠ 0 → s.eng.running = true → r % seg ≤ seg / 3 → n = r / seg ∧ kind = 1) ∧
      (r % seg ≠ 0 → s.eng.running = true → seg / 3 < r % seg → n = r / seg ∧ kind = 2)

/-- R150: under the budget invariant a directive's count is at most 8, and at most 7 when an LED blinks. -/
def Obligations.DirectiveStaysOnTheRing : Prop :=
  ∀ s : State, EngineInv s →
    s.directive.n.toNat ≤ 8 ∧ (s.directive.kind = .fast ∨ s.directive.kind = .slow → s.directive.n.toNat ≤ 7)

/-- R149: on a boundary the solid and blinking segments account for exactly the budget, and off a boundary the number of
LEDs lit or blinking is the budget rounded up, except in `All`. -/
def Obligations.DirectiveAccountsForTheBudget : Prop :=
  ∀ s : State, EngineInv s →
    let lit := s.directive.n.toNat + (if s.directive.kind = .fast ∨ s.directive.kind = .slow then 1 else 0)
    (s.eng.remaining % s.par.segPeriod = 0 → lit * s.par.segPeriod = s.eng.remaining) ∧
    (s.directive.kind ≠ .all → lit = (s.eng.remaining + s.par.segPeriod - 1) / s.par.segPeriod)

/-- R141, R142: the whole update. The buttons and the display change as by the direct commands, the decay saturates, only
`Push` acts, and `last_update` is written; under the budget invariant it always ends with `OK`. -/
def Obligations.EngineUpdateIsItsSubOperations : Prop :=
  ∀ (s : State) (now : Nat), s.fault = false → EngineInv s →
    ∃ t t0 t1 td : State,
      exec (.engUpdate now) s = .next t ∧
      exec (.btnUpdate .b0 now) s = .next t0 ∧ exec (.btnUpdate .b1 now) s = .next t1 ∧
      t = { s with btn0 := t0.btn0, btn1 := t1.btn1, eng := t.eng, dsp := td.dsp, rsp := some ⟨.ok, 0⟩ } ∧
      (t.eng.running = if t0.rsp = some ⟨.ok, 3⟩ then !s.eng.running else s.eng.running) ∧
      (let left := if s.eng.running then s.eng.remaining - (now - s.eng.lastUpdate) else s.eng.remaining
       t.eng.remaining = if t1.rsp = some ⟨.ok, 3⟩ then
          (if 8 * s.par.segPeriod ≤ left then s.par.segPeriod
           else min (left + s.par.segPeriod) (8 * s.par.segPeriod))
        else left) ∧
      t.eng.lastUpdate = now ∧
      exec (.dspUpdate t.directive.n t.directive.kind now) s = .next td ∧ td.fault = false

/-- R152: the budget runs out and the start/stop button is pushed in one update: the frame is `(0, None)`, not `All`. -/
def Obligations.ExpiryAndStopRenderInOneFrame : Prop :=
  ∀ (s t0 t1 : State) (now : Nat), s.fault = false → EngineInv s → s.eng.running = true →
    s.eng.remaining ≤ now - s.eng.lastUpdate →
    exec (.btnUpdate .b0 now) s = .next t0 → t0.answers 3 →
    exec (.btnUpdate .b1 now) s = .next t1 → ¬ t1.answers 3 →
    ∃ t, exec (.engUpdate now) s = .next t ∧ t.eng.running = false ∧ t.eng.remaining = 0 ∧
      t.directive = ⟨0, .none⟩ ∧ t.dsp.numOn = 0 ∧ t.dsp.wasAll = false ∧ t.dsp.blValid = false

/-- R203: only a directly commanded `DSP.UPDATE` can raise a fault: a step that accepts no such command keeps the block
out of the fault state, whatever else the host and the environment do. -/
def Obligations.OnlyADirectFrameCanFault : Prop :=
  ∀ s t : State, s.fault = false → EngineInv s → step s = .next t →
    (∀ w n kind now, (nextEvent s).1 = .command w → decode s.par.msW w ≠ .ok (.dspUpdate n kind now)) →
    t.fault = false ∧ EngineInv t

/-! ### The display unit (43_display.md) -/

/-- R161, R204: the two range checks come before any write: the fault record is written, the status is `FAULT`, and nothing
else changes. -/
def Obligations.FrameRangeChecksFault : Prop :=
  ∀ (s : State) (n : BitVec 4) (kind : BlinkKind) (now : Nat), s.fault = false →
    (8 < n.toNat → exec (.dspUpdate n kind now) s =
      .next { s with fault := true, faultCause := 1, rsp := some ⟨.fault, 0⟩ }) ∧
    (n.toNat = 8 → (kind = .fast ∨ kind = .slow) → exec (.dspUpdate n kind now) s =
      .next { s with fault := true, faultCause := 2, rsp := some ⟨.fault, 0⟩ })

/-- R161, R162, R164: a legal frame that is not `All` ends with `OK`. It runs `SOLID.RESYNC n` when `n` is not the recorded
count or the ring was in `All` mode, leaves `All` mode, then runs `BLINKY.UPDATE` with the index `n` when the kind is `Fast`
or `Slow`. So the solid count is `n`, an LED blinks exactly for those kinds, and the all-ring schedule stays. -/
def Obligations.LegalFrameRunsSolidThenBlinky : Prop :=
  ∀ (s : State) (n : BitVec 4) (kind : BlinkKind) (now : Nat), s.fault = false → kind ≠ .all →
    n.toNat ≤ 8 → ((kind = .fast ∨ kind = .slow) → n.toNat ≤ 7) →
    ∃ r u t : State,
      (if n ≠ s.dsp.numOn ∨ s.dsp.wasAll = true then exec (.solidResync n) s = .next r else r = s) ∧
      exec (.blinkyUpdate (if kind = .fast ∨ kind = .slow then some (n.setWidth 3) else none) (decide (kind = .fast)) now)
        { r with dsp := { r.dsp with wasAll := false } } = .next u ∧
      exec (.dspUpdate n kind now) s = .next t ∧ t = { s with dsp := u.dsp, rsp := some ⟨.ok, 0⟩ } ∧
      t.dsp.numOn = n ∧ t.dsp.wasAll = false ∧
      (t.dsp.blValid = true ↔ (kind = .fast ∨ kind = .slow)) ∧
      ((kind = .fast ∨ kind = .slow) → t.dsp.blIdx.toNat = n.toNat) ∧
      t.dsp.allOn = s.dsp.allOn ∧ t.dsp.allNext = s.dsp.allNext

/-- R163, R164, R165, R173: the LEDs after a frame in which the resync ran: solid below `n`, and the LED that Blinky stops,
starts, toggles or moves to as its case says. -/
def Obligations.ResyncFrameLeds : Prop :=
  ∀ (s : State) (n : BitVec 4) (kind : BlinkKind) (now : Nat), s.fault = false → kind ≠ .all →
    n.toNat ≤ 8 → ((kind = .fast ∨ kind = .slow) → n.toNat ≤ 7) → (n ≠ s.dsp.numOn ∨ s.dsp.wasAll = true) →
    ∃ t, exec (.dspUpdate n kind now) s = .next t ∧ ∀ i < 8,
      (kind = .none → s.dsp.blValid = false → t.dsp.led.getLsbD i = decide (i < n.toNat)) ∧
      (kind = .none → s.dsp.blValid = true →
        t.dsp.led.getLsbD i = decide (i < n.toNat ∧ i ≠ s.dsp.blIdx.toNat)) ∧
      (kind ≠ .none → s.dsp.blValid = false → t.dsp.led.getLsbD i = decide (i ≤ n.toNat)) ∧
      (kind ≠ .none → s.dsp.blValid = true → s.dsp.blIdx.toNat = n.toNat →
        t.dsp.led.getLsbD i = decide (i < n.toNat ∨ (i = n.toNat ∧ s.dsp.blNext ≤ now))) ∧
      (kind ≠ .none → s.dsp.blValid = true → s.dsp.blIdx.toNat ≠ n.toNat →
        t.dsp.led.getLsbD i = decide (i < n.toNat))

/-- R161 corner case (4): a frame with the same count, the same blinking LED and no deadline reached changes nothing. -/
def Obligations.RepeatedFrameWritesNothing : Prop :=
  ∀ (s : State) (n : BitVec 4) (kind : BlinkKind) (now : Nat), s.fault = false → kind ≠ .all → n.toNat ≤ 8 →
    n = s.dsp.numOn → s.dsp.wasAll = false →
    ((kind = .none ∧ s.dsp.blValid = false) ∨
      ((kind = .fast ∨ kind = .slow) ∧ s.dsp.blValid = true ∧ s.dsp.blIdx.toNat = n.toNat ∧ now < s.dsp.blNext)) →
    exec (.dspUpdate n kind now) s = .next { s with rsp := some ⟨.ok, 0⟩ }

/-- R170 (a), R165: when Blinky starts, the LED at `n` is lit, the remembered phase is off, and the deadline is one *off*
duration after `now`. -/
def Obligations.BlinkStartsLitWithPhaseOff : Prop :=
  ∀ (s : State) (n : BitVec 4) (kind : BlinkKind) (now : Nat), s.fault = false → DisplayInv s →
    (kind = .fast ∨ kind = .slow) → n.toNat ≤ 7 → s.dsp.blValid = false →
    ∃ t, exec (.dspUpdate n kind now) s = .next t ∧ t.dsp.led.getLsbD n.toNat = true ∧ t.dsp.blOn = false ∧
      t.dsp.blNext = (now + (if kind = .fast then s.par.tFastOff else s.par.tSlowOff)) % 2 ^ s.par.msW

/-- R163: `SOLID.RESYNC`, code `0x9`, refused on the command port, rewrites every LED and records the count. -/
def Obligations.ResyncRewritesTheRing : Prop :=
  ∀ (s : State) (n : BitVec 4), s.fault = false → n.toNat ≤ 8 →
    decode s.par.msW (packWord s.par.msW 0x9 0 0) = .error .internalSolidResync ∧
    ∃ t, exec (.solidResync n) s = .next t ∧ t = { s with dsp := { s.dsp with led := t.dsp.led, numOn := n } } ∧
      ∀ i < 8, t.dsp.led.getLsbD i = decide (i < n.toNat)

/-- R165: the five cases of `BLINKY.UPDATE`, internal code `0xA`; where a case calls `BLINKY.TOGGLE`, the result is that of `BLINKY.TOGGLE` on
the state the case has prepared. -/
def Obligations.BlinkyUpdateCases : Prop :=
  ∀ (s : State) (isFast : Bool) (now : Nat), s.fault = false →
    decode s.par.msW (packWord s.par.msW 0xA 0 0) = .error .internalBlinkyUpdate ∧
    (s.dsp.blValid = false → exec (.blinkyUpdate none isFast now) s = .next s) ∧
    (s.dsp.blValid = true → ∃ t, exec (.blinkyUpdate none isFast now) s = .next t ∧
      t = { s with dsp := { s.dsp with led := t.dsp.led, blValid := false, blOn := false } } ∧
      ∀ i < 8, t.dsp.led.getLsbD i = (decide (i ≠ s.dsp.blIdx.toNat) && s.dsp.led.getLsbD i)) ∧
    (∀ B, s.dsp.blValid = false → exec (.blinkyUpdate (some B) isFast now) s =
      exec (.blinkyToggle isFast)
        { s with dsp := { s.dsp with blValid := true, blIdx := B, blOn := true, blNext := now } }) ∧
    (s.dsp.blValid = true → s.dsp.blNext ≤ now → exec (.blinkyUpdate (some s.dsp.blIdx) isFast now) s =
      exec (.blinkyToggle isFast) s) ∧
    (s.dsp.blValid = true → now < s.dsp.blNext →
      exec (.blinkyUpdate (some s.dsp.blIdx) isFast now) s = .next s) ∧
    (∀ B, s.dsp.blValid = true → B ≠ s.dsp.blIdx → exec (.blinkyUpdate (some B) isFast now) s =
      .next { s with dsp := { s.dsp with blIdx := B, blOn := !s.dsp.blOn, blNext := now } })

/-- R168: `BLINKY.TOGGLE`, internal code `0xB`, inverts the blinking LED and the remembered phase, and advances the deadline from its old value by
the duration of the new phase. -/
def Obligations.ToggleFlipsLedAndPhase : Prop :=
  ∀ (s : State) (isFast : Bool), s.fault = false → s.dsp.blValid = true →
    decode s.par.msW (packWord s.par.msW 0xB 0 0) = .error .internalBlinkyToggle ∧
    ∃ t, exec (.blinkyToggle isFast) s = .next t ∧
      t = { s with dsp := { s.dsp with led := t.dsp.led, blOn := !s.dsp.blOn, blNext := t.dsp.blNext } } ∧
      (∀ i < 8, t.dsp.led.getLsbD i =
        if i = s.dsp.blIdx.toNat then !s.dsp.led.getLsbD i else s.dsp.led.getLsbD i) ∧
      (isFast = true → s.dsp.blOn = false → t.dsp.blNext = (s.dsp.blNext + s.par.tFastOn) % 2 ^ s.par.msW) ∧
      (isFast = true → s.dsp.blOn = true → t.dsp.blNext = (s.dsp.blNext + s.par.tFastOff) % 2 ^ s.par.msW) ∧
      (isFast = false → s.dsp.blOn = false → t.dsp.blNext = (s.dsp.blNext + s.par.tSlowOn) % 2 ^ s.par.msW) ∧
      (isFast = false → s.dsp.blOn = true → t.dsp.blNext = (s.dsp.blNext + s.par.tSlowOff) % 2 ^ s.par.msW)

/-- R171: `ALL.UPDATE`, internal code `0xC`: entry resets Blinky and lights the whole ring at once; later frames toggle the ring in lockstep when
the deadline is reached, at most once a frame, and otherwise change nothing. -/
def Obligations.AllUpdateCases : Prop :=
  ∀ (s : State) (now : Nat), s.fault = false →
    decode s.par.msW (packWord s.par.msW 0xC 0 0) = .error .internalAllUpdate ∧
    (s.dsp.wasAll = false → exec (.allUpdate now) s = .next { s with dsp := { s.dsp with
      led := 0xFF, wasAll := true, blValid := false, blOn := false, allOn := true,
      allNext := (now + s.par.tAll) % 2 ^ s.par.msW } }) ∧
    (s.dsp.wasAll = true → s.dsp.allNext ≤ now → exec (.allUpdate now) s = .next { s with dsp := { s.dsp with
      led := if s.dsp.allOn then 0x00 else 0xFF, allOn := !s.dsp.allOn,
      allNext := (s.dsp.allNext + s.par.tAll) % 2 ^ s.par.msW } }) ∧
    (s.dsp.wasAll = true → now < s.dsp.allNext → exec (.allUpdate now) s = .next s)

/-- R161, R171: a frame whose directive is `All` changes the display as `ALL.UPDATE` does, for every legal count, and ends
with `OK`. -/
def Obligations.AllFrameRunsAllUpdate : Prop :=
  ∀ (s : State) (n : BitVec 4) (now : Nat), s.fault = false → n.toNat ≤ 8 →
    ∃ t u, exec (.dspUpdate n .all now) s = .next t ∧ exec (.allUpdate now) s = .next u ∧
      t = { s with dsp := u.dsp, rsp := some ⟨.ok, 0⟩ }

/-! ### The whole machine -/

/-- 10_state.md section 1 (R20) and 20_memory.md section 3 (R62): which operations write which unit, which can give the pulse
`wrap_clr_o`, and which can raise a fault. -/
def Obligations.EachUnitHasItsMutators : Prop :=
  ∀ (i : Instr) (s t : State), exec i s = .next t →
    (t.clk ≠ s.clk → i = .clkInit ∨ i = .clkWait ∨ i = .fclkNow) ∧
    (t.hwt ≠ s.hwt → i = .clkInit ∨ i = .clkWait ∨ i = .fclkNow) ∧
    (t.wrapClr ≠ s.wrapClr → i = .clkInit ∨ i = .clkWait ∨ i = .fclkNow) ∧
    (t.btn0 ≠ s.btn0 → (∃ now, i = .btnUpdate .b0 now) ∨ ∃ now, i = .engUpdate now) ∧
    (t.btn1 ≠ s.btn1 → (∃ now, i = .btnUpdate .b1 now) ∨ ∃ now, i = .engUpdate now) ∧
    (t.eng ≠ s.eng → i = .engAddtime ∨ ∃ now, i = .engUpdate now) ∧
    (t.dsp ≠ s.dsp → (∃ now, i = .engUpdate now) ∨ (∃ n kind now, i = .dspUpdate n kind now) ∨
      i.hostCommand = false) ∧
    (t.fault ≠ s.fault → (∃ now, i = .engUpdate now) ∨ ∃ n kind now, i = .dspUpdate n kind now) ∧
    t.cfg = s.cfg ∧ t.contacts = s.contacts ∧ t.env.events = s.env.events

/-- R56 (2): `led_o` changes only in a step that accepts a `DSP.UPDATE` or `ENG.UPDATE`, and at reset. -/
def Obligations.LedsChangeOnlyInFramesOrReset : Prop :=
  ∀ s t : State, step s = .next t → t.ledO ≠ s.ledO →
    (nextEvent s).1 = .reset ∨
    ∃ w, (nextEvent s).1 = .command w ∧ s.waiting = false ∧ s.fault = false ∧
      ((∃ now, decode s.par.msW w = .ok (.engUpdate now)) ∨
        ∃ n kind now, decode s.par.msW w = .ok (.dspUpdate n kind now))

/-- R205: the fault is sticky: a step that is not a reset keeps the fault record and every register of the block. -/
def Obligations.FaultIsSticky : Prop :=
  ∀ s t : State, s.fault = true → s.waiting = false → step s = .next t → (nextEvent s).1 ≠ .reset →
    t.fault = true ∧ t.faultCause = s.faultCause ∧ t.clk = s.clk ∧ t.btn0 = s.btn0 ∧ t.btn1 = s.btn1 ∧
    t.eng = s.eng ∧ t.dsp = s.dsp ∧ t.waiting = false

/-- R230, R231, R44: at `rst_n` every field of the block takes its reset value, also out of a fault and out of a wait,
without a response; HWT, the contacts and the straps are not reset. Whether `wrap_clr_o` gives a pulse is left open here. -/
def Obligations.ResetClearsTheBlock : Prop :=
  ∀ (s : State) (rest : List Event), s.env.events = .reset :: rest →
    ∃ t, step s = .next t ∧ t = {
      cfg := s.cfg,
      clk := { clkValid := false, msAcc := 0, fticks := 0, lastRead := 0 },
      btn0 := { level := false, debValid := false, debUntil := 0 },
      btn1 := { level := false, debValid := false, debUntil := 0 },
      eng := { running := false, remaining := 0, lastUpdate := 0 },
      dsp := { led := 0, numOn := 0, wasAll := false, blValid := false, blIdx := 0, blOn := false, blNext := 0,
               allOn := false, allNext := 0 },
      fault := false, faultCause := 0, waiting := false, rsp := none, wrapClr := t.wrapClr,
      hwt := s.hwt, contacts := s.contacts, env := { s.env with events := rest } }

/-- R35: no step writes a configuration value. -/
def Obligations.ConfigurationIsConstant : Prop :=
  ∀ s t : State, step s = .next t → t.cfg = s.cfg

/-- R34: the bits of the `STATUS` word. -/
def Obligations.StatusWordBits : Prop :=
  ∀ s : State, s.statusWord.getLsbD 0 = s.clk.clkValid ∧ s.statusWord.getLsbD 1 = s.fault ∧
    s.statusWord.extractLsb' 2 2 = s.faultCause

/-- R90: `TICK` waits for the flag, then reads the clock of the variant and updates the engine with the value read. It does
so when the flag is set at its start, and when HWT passes `MAX_COUNT` while it waits, whatever words the host presents and
whatever the contacts do in the wait, and whatever HWT and the contacts do between its commands (R101, R41); under the
invariants it ends with `OK` and without a fault. While HWT does not pass `MAX_COUNT`, `TICK` is still in its `CLK.WAIT`,
and has changed neither the clock unit nor the engine. What is left out between the commands is log entry 21. -/
def Obligations.TickFeedsTheEngineTheClock : Prop :=
  ∀ (s : State) (m : TickMoves), s.fault = false → s.clk.clkValid = true → EngineInv s →
    let passes := maxCount s.par < s.hwt.phase.toNat + advanceTotal m.whileWaiting
    (s.hwt.wrapf = true ∨ (ClockInv s ∧ .reset ∉ m.whileWaiting ∧ passes) →
      ∃ t, tick m s = .next t ∧ t.answers 0 ∧ t.fault = false ∧ EngineInv t ∧
        (s.par.variant = .coarse →
          t.eng.lastUpdate = (s.clk.msAcc + s.par.tickPeriod) % 2 ^ s.par.msW ∧ t.clk.msAcc = t.eng.lastUpdate) ∧
        (s.par.variant = .fine → t.eng.lastUpdate = ticksToMs s.par t.clk.fticks.toNat % 2 ^ s.par.msW)) ∧
    (s.hwt.wrapf = false → ClockInv s → .reset ∉ m.whileWaiting → ¬ passes →
      ∃ t, tick m s = .next t ∧ t.waiting = true ∧ t.rsp = none ∧ t.clk = s.clk ∧ t.eng = s.eng)

/-! ### Invariants (10_state.md R39): at reset, and kept by every step -/

/-- R44, R39: in every configuration the reset state meets every invariant. The values of HWT and of the contacts in
`State.resetWith` are the model's choice (log entry 7); the clauses about HWT have a valid clock as a premise, so none
rests on that choice. -/
def Obligations.ResetMeetsTheInvariants : Prop :=
  ∀ cfg : Config, let s := State.resetWith cfg
    RangeInv s ∧ EngineInv s ∧ FaultInv s ∧ ClockInv s ∧ ButtonInv s ∧ DisplayInv s ∧ PortInv s

/-- R11: every `Ms` register and the response data stay `MS_W`-bit values. -/
def Obligations.StepKeepsTheRanges : Prop :=
  ∀ s t : State, RangeInv s → step s = .next t → RangeInv t

/-- R150, R27: `ENG.remaining <= 8 * SEG_PERIOD` is kept. -/
def Obligations.StepKeepsTheBudget : Prop :=
  ∀ s t : State, EngineInv s → step s = .next t → EngineInv t

/-- R38, R39: the fault record stays legal. -/
def Obligations.StepKeepsTheFaultRecord : Prop :=
  ∀ s t : State, FaultInv s → step s = .next t → FaultInv t

/-- R21, R22, R39, R101, R108: the clock unit and HWT stay consistent, whatever HWT does within its contract. -/
def Obligations.StepKeepsTheClock : Prop :=
  ∀ s t : State, ClockInv s → step s = .next t → ClockInv t

/-- R123, R124: a button with delay 0 never stores a deadline. -/
def Obligations.StepKeepsTheButtons : Prop :=
  ∀ s t : State, ButtonInv s → step s = .next t → ButtonInv t

/-- R39, R170, R171: the solid count is legal, the ring is in lockstep in `All` mode, and otherwise every LED at or above
the solid count but the blinking one is off. -/
def Obligations.StepKeepsTheDisplay : Prop :=
  ∀ s t : State, DisplayInv s → step s = .next t → DisplayInv t

/-- R70, R77: a command in progress is an unanswered `CLK.WAIT` of a valid clock. -/
def Obligations.StepKeepsThePort : Prop :=
  ∀ s t : State, PortInv s → step s = .next t → PortInv t
end

