-- ==== Sys2Proof/Laws/Config.lean ====
section
/-! SUPPORT. What a well-formed configuration gives (00_scope.md R6), and the laws of `TICKS_TO_MS`. -/

namespace Sys2Proof

/-- The constraints of a configuration, as propositions. -/
theorem Config.valid (c : Config) : c.params.Valid := by
  have h := c.wellFormed
  simp only [Params.check, Bool.and_eq_true, decide_eq_true_eq] at h
  obtain ⟨⟨⟨⟨⟨⟨⟨⟨⟨⟨⟨h1, h2⟩, h3⟩, h4⟩, h5⟩, h6⟩, h7⟩, h8⟩, h9⟩, h10⟩, h11⟩, h12⟩ := h
  exact ⟨h1, h2, h3, h4, h5, h6, h7, h8, h9, h10, h11, h12⟩

/-- `MS_W` is at least 4: `8 * SEG_PERIOD` fits and `SEG_PERIOD` is positive. -/
theorem Config.sixteen_le_pow (c : Config) : 16 ≤ 2 ^ c.params.msW := by
  have h1 := c.valid.seg_pos
  have h2 := c.valid.budget_fits
  have h3 : 3 < c.params.msW := by
    by_contra h
    have : 2 ^ c.params.msW ≤ 2 ^ 3 := Nat.pow_le_pow_right (by omega) (by omega)
    omega
  calc 16 = 2 ^ 4 := by norm_num
    _ ≤ 2 ^ c.params.msW := Nat.pow_le_pow_right (by omega) h3

/-- Data below 16 passes the response port unchanged. -/
theorem Config.mod_pow_of_lt (c : Config) {n : Nat} (h : n < 16) : n % 2 ^ c.params.msW = n :=
  Nat.mod_eq_of_lt (lt_of_lt_of_le h c.sixteen_le_pow)

/-- The off durations fit too, being shorter than the on durations. -/
theorem Params.Valid.fastOff_fits {p : Params} (h : p.Valid) : p.tFastOff < 2 ^ p.msW :=
  lt_trans h.fast_order h.fastOn_fits

theorem Params.Valid.slowOff_fits {p : Params} (h : p.Valid) : p.tSlowOff < 2 ^ p.msW :=
  lt_trans h.slow_order h.slowOn_fits

namespace Machine

theorem debounceDelay_lt (c : Config) (b : BtnId) : debounceDelay c.params b < 2 ^ c.params.msW := by
  cases b
  · exact c.valid.debounce0_fits
  · exact c.valid.debounce1_fits

theorem satSub_eq (a b : Nat) : satSub a b = a - b := by
  unfold satSub; split <;> omega

theorem wrapAdd_lt (w a b : Nat) : wrapAdd w a b < 2 ^ w := Nat.mod_lt _ (Nat.two_pow_pos w)

theorem wrapAdd_of_lt {w a b : Nat} (h : a + b < 2 ^ w) : wrapAdd w a b = a + b := Nat.mod_eq_of_lt h

theorem reloadOk_iff (p : Params) : reloadOk p = true ↔ 1 ≤ reload p ∧ reload p ≤ maxReload := by
  simp [reloadOk]

theorem tickGrowthSum_mono (k : Nat) {m n : Nat} (h : m ≤ n) : tickGrowthSum k m ≤ tickGrowthSum k n := by
  induction n, h using Nat.le_induction with
  | base => exact Nat.le_refl _
  | succ n _ ih => exact Nat.le_trans ih (Nat.le_add_right _ _)

/-- `TICKS_TO_MS(0) = 0` (00_scope.md R6). -/
@[simp] theorem ticksToMs_zero (p : Params) : ticksToMs p 0 = 0 := by
  unfold ticksToMs; split <;> simp [tickGrowthSum]

/-- `TICKS_TO_MS` is monotone (00_scope.md R6). -/
theorem ticksToMs_mono (p : Params) {m n : Nat} (h : m ≤ n) : ticksToMs p m ≤ ticksToMs p n := by
  unfold ticksToMs
  split
  · exact Nat.div_le_div_right (Nat.mul_le_mul_right _ h)
  · exact tickGrowthSum_mono _ h

end Machine

end Sys2Proof
end

