-- ==== Sys2Proof/Laws/State.lean ====
section
/-! SUPPORT. One lemma for each field of State under each named update. -/

namespace Sys2Proof.Machine

/-! ### `endPulses` -/

@[simp] theorem endPulses_cfg (s : State) : (endPulses s).cfg = s.cfg := rfl
@[simp] theorem endPulses_clk (s : State) : (endPulses s).clk = s.clk := rfl
@[simp] theorem endPulses_btn0 (s : State) : (endPulses s).btn0 = s.btn0 := rfl
@[simp] theorem endPulses_btn1 (s : State) : (endPulses s).btn1 = s.btn1 := rfl
@[simp] theorem endPulses_eng (s : State) : (endPulses s).eng = s.eng := rfl
@[simp] theorem endPulses_dsp (s : State) : (endPulses s).dsp = s.dsp := rfl
@[simp] theorem endPulses_fault (s : State) : (endPulses s).fault = s.fault := rfl
@[simp] theorem endPulses_faultCause (s : State) : (endPulses s).faultCause = s.faultCause := rfl
@[simp] theorem endPulses_waiting (s : State) : (endPulses s).waiting = s.waiting := rfl
@[simp] theorem endPulses_rsp (s : State) : (endPulses s).rsp = none := rfl
@[simp] theorem endPulses_wrapClr (s : State) : (endPulses s).wrapClr = false := rfl
@[simp] theorem endPulses_hwt (s : State) : (endPulses s).hwt = s.hwt := rfl
@[simp] theorem endPulses_contacts (s : State) : (endPulses s).contacts = s.contacts := rfl
@[simp] theorem endPulses_env (s : State) : (endPulses s).env = s.env := rfl

/-! ### `respond` -/

@[simp] theorem respond_cfg (st : Status) (d : Nat) (s : State) : (respond st d s).cfg = s.cfg := rfl
@[simp] theorem respond_clk (st : Status) (d : Nat) (s : State) : (respond st d s).clk = s.clk := rfl
@[simp] theorem respond_btn0 (st : Status) (d : Nat) (s : State) : (respond st d s).btn0 = s.btn0 := rfl
@[simp] theorem respond_btn1 (st : Status) (d : Nat) (s : State) : (respond st d s).btn1 = s.btn1 := rfl
@[simp] theorem respond_eng (st : Status) (d : Nat) (s : State) : (respond st d s).eng = s.eng := rfl
@[simp] theorem respond_dsp (st : Status) (d : Nat) (s : State) : (respond st d s).dsp = s.dsp := rfl
@[simp] theorem respond_fault (st : Status) (d : Nat) (s : State) : (respond st d s).fault = s.fault := rfl
@[simp] theorem respond_faultCause (st : Status) (d : Nat) (s : State) : (respond st d s).faultCause = s.faultCause := rfl
@[simp] theorem respond_waiting (st : Status) (d : Nat) (s : State) : (respond st d s).waiting = s.waiting := rfl
@[simp] theorem respond_rsp (st : Status) (d : Nat) (s : State) : (respond st d s).rsp = some ⟨st, d % 2 ^ s.par.msW⟩ := rfl
@[simp] theorem respond_wrapClr (st : Status) (d : Nat) (s : State) : (respond st d s).wrapClr = s.wrapClr := rfl
@[simp] theorem respond_hwt (st : Status) (d : Nat) (s : State) : (respond st d s).hwt = s.hwt := rfl
@[simp] theorem respond_contacts (st : Status) (d : Nat) (s : State) : (respond st d s).contacts = s.contacts := rfl
@[simp] theorem respond_env (st : Status) (d : Nat) (s : State) : (respond st d s).env = s.env := rfl

/-! ### `refuse` -/

@[simp] theorem refuse_cfg (st : Status) (s : State) : (refuse st s).cfg = s.cfg := rfl
@[simp] theorem refuse_clk (st : Status) (s : State) : (refuse st s).clk = s.clk := rfl
@[simp] theorem refuse_btn0 (st : Status) (s : State) : (refuse st s).btn0 = s.btn0 := rfl
@[simp] theorem refuse_btn1 (st : Status) (s : State) : (refuse st s).btn1 = s.btn1 := rfl
@[simp] theorem refuse_eng (st : Status) (s : State) : (refuse st s).eng = s.eng := rfl
@[simp] theorem refuse_dsp (st : Status) (s : State) : (refuse st s).dsp = s.dsp := rfl
@[simp] theorem refuse_fault (st : Status) (s : State) : (refuse st s).fault = s.fault := rfl
@[simp] theorem refuse_faultCause (st : Status) (s : State) : (refuse st s).faultCause = s.faultCause := rfl
@[simp] theorem refuse_waiting (st : Status) (s : State) : (refuse st s).waiting = s.waiting := rfl
@[simp] theorem refuse_rsp (st : Status) (s : State) : (refuse st s).rsp = some ⟨st, 0 % 2 ^ s.par.msW⟩ := rfl
@[simp] theorem refuse_wrapClr (st : Status) (s : State) : (refuse st s).wrapClr = s.wrapClr := rfl
@[simp] theorem refuse_hwt (st : Status) (s : State) : (refuse st s).hwt = s.hwt := rfl
@[simp] theorem refuse_contacts (st : Status) (s : State) : (refuse st s).contacts = s.contacts := rfl
@[simp] theorem refuse_env (st : Status) (s : State) : (refuse st s).env = s.env := rfl

/-! ### `raiseFatal` -/

@[simp] theorem raiseFatal_cfg (c : FaultCause) (s : State) : (raiseFatal c s).cfg = s.cfg := rfl
@[simp] theorem raiseFatal_clk (c : FaultCause) (s : State) : (raiseFatal c s).clk = s.clk := rfl
@[simp] theorem raiseFatal_btn0 (c : FaultCause) (s : State) : (raiseFatal c s).btn0 = s.btn0 := rfl
@[simp] theorem raiseFatal_btn1 (c : FaultCause) (s : State) : (raiseFatal c s).btn1 = s.btn1 := rfl
@[simp] theorem raiseFatal_eng (c : FaultCause) (s : State) : (raiseFatal c s).eng = s.eng := rfl
@[simp] theorem raiseFatal_dsp (c : FaultCause) (s : State) : (raiseFatal c s).dsp = s.dsp := rfl
@[simp] theorem raiseFatal_fault (c : FaultCause) (s : State) : (raiseFatal c s).fault = true := rfl
@[simp] theorem raiseFatal_faultCause (c : FaultCause) (s : State) : (raiseFatal c s).faultCause = c.code := rfl
@[simp] theorem raiseFatal_waiting (c : FaultCause) (s : State) : (raiseFatal c s).waiting = s.waiting := rfl
@[simp] theorem raiseFatal_rsp (c : FaultCause) (s : State) : (raiseFatal c s).rsp = s.rsp := rfl
@[simp] theorem raiseFatal_wrapClr (c : FaultCause) (s : State) : (raiseFatal c s).wrapClr = s.wrapClr := rfl
@[simp] theorem raiseFatal_hwt (c : FaultCause) (s : State) : (raiseFatal c s).hwt = s.hwt := rfl
@[simp] theorem raiseFatal_contacts (c : FaultCause) (s : State) : (raiseFatal c s).contacts = s.contacts := rfl
@[simp] theorem raiseFatal_env (c : FaultCause) (s : State) : (raiseFatal c s).env = s.env := rfl

/-! ### `hwtAdvance` -/

@[simp] theorem hwtAdvance_cfg (k : Nat) (s : State) : (hwtAdvance k s).cfg = s.cfg := rfl
@[simp] theorem hwtAdvance_clk (k : Nat) (s : State) : (hwtAdvance k s).clk = s.clk := rfl
@[simp] theorem hwtAdvance_btn0 (k : Nat) (s : State) : (hwtAdvance k s).btn0 = s.btn0 := rfl
@[simp] theorem hwtAdvance_btn1 (k : Nat) (s : State) : (hwtAdvance k s).btn1 = s.btn1 := rfl
@[simp] theorem hwtAdvance_eng (k : Nat) (s : State) : (hwtAdvance k s).eng = s.eng := rfl
@[simp] theorem hwtAdvance_dsp (k : Nat) (s : State) : (hwtAdvance k s).dsp = s.dsp := rfl
@[simp] theorem hwtAdvance_fault (k : Nat) (s : State) : (hwtAdvance k s).fault = s.fault := rfl
@[simp] theorem hwtAdvance_faultCause (k : Nat) (s : State) : (hwtAdvance k s).faultCause = s.faultCause := rfl
@[simp] theorem hwtAdvance_waiting (k : Nat) (s : State) : (hwtAdvance k s).waiting = s.waiting := rfl
@[simp] theorem hwtAdvance_rsp (k : Nat) (s : State) : (hwtAdvance k s).rsp = s.rsp := rfl
@[simp] theorem hwtAdvance_wrapClr (k : Nat) (s : State) : (hwtAdvance k s).wrapClr = s.wrapClr := rfl
@[simp] theorem hwtAdvance_hwt (k : Nat) (s : State) : (hwtAdvance k s).hwt = s.hwt.advance (maxCount s.par) k := rfl
@[simp] theorem hwtAdvance_contacts (k : Nat) (s : State) : (hwtAdvance k s).contacts = s.contacts := rfl
@[simp] theorem hwtAdvance_env (k : Nat) (s : State) : (hwtAdvance k s).env = s.env := rfl

/-! ### `readClearWrapFlag` -/

@[simp] theorem readClearWrapFlag_cfg (s : State) : ((readClearWrapFlag s).2).cfg = s.cfg := rfl
@[simp] theorem readClearWrapFlag_clk (s : State) : ((readClearWrapFlag s).2).clk = s.clk := rfl
@[simp] theorem readClearWrapFlag_btn0 (s : State) : ((readClearWrapFlag s).2).btn0 = s.btn0 := rfl
@[simp] theorem readClearWrapFlag_btn1 (s : State) : ((readClearWrapFlag s).2).btn1 = s.btn1 := rfl
@[simp] theorem readClearWrapFlag_eng (s : State) : ((readClearWrapFlag s).2).eng = s.eng := rfl
@[simp] theorem readClearWrapFlag_dsp (s : State) : ((readClearWrapFlag s).2).dsp = s.dsp := rfl
@[simp] theorem readClearWrapFlag_fault (s : State) : ((readClearWrapFlag s).2).fault = s.fault := rfl
@[simp] theorem readClearWrapFlag_faultCause (s : State) : ((readClearWrapFlag s).2).faultCause = s.faultCause := rfl
@[simp] theorem readClearWrapFlag_waiting (s : State) : ((readClearWrapFlag s).2).waiting = s.waiting := rfl
@[simp] theorem readClearWrapFlag_rsp (s : State) : ((readClearWrapFlag s).2).rsp = s.rsp := rfl
@[simp] theorem readClearWrapFlag_wrapClr (s : State) : ((readClearWrapFlag s).2).wrapClr = true := rfl
@[simp] theorem readClearWrapFlag_hwt (s : State) : ((readClearWrapFlag s).2).hwt = { s.hwt with wrapf := false } := rfl
@[simp] theorem readClearWrapFlag_contacts (s : State) : ((readClearWrapFlag s).2).contacts = s.contacts := rfl
@[simp] theorem readClearWrapFlag_env (s : State) : ((readClearWrapFlag s).2).env = s.env := rfl

@[simp] theorem readClearWrapFlag_flag (s : State) : (readClearWrapFlag s).1 = s.hwt.wrapf := rfl

/-! ### `setContact` -/

@[simp] theorem setContact_cfg (b : BtnId) (v : Bool) (s : State) : (setContact b v s).cfg = s.cfg := by cases b <;> rfl
@[simp] theorem setContact_clk (b : BtnId) (v : Bool) (s : State) : (setContact b v s).clk = s.clk := by cases b <;> rfl
@[simp] theorem setContact_btn0 (b : BtnId) (v : Bool) (s : State) : (setContact b v s).btn0 = s.btn0 := by cases b <;> rfl
@[simp] theorem setContact_btn1 (b : BtnId) (v : Bool) (s : State) : (setContact b v s).btn1 = s.btn1 := by cases b <;> rfl
@[simp] theorem setContact_eng (b : BtnId) (v : Bool) (s : State) : (setContact b v s).eng = s.eng := by cases b <;> rfl
@[simp] theorem setContact_dsp (b : BtnId) (v : Bool) (s : State) : (setContact b v s).dsp = s.dsp := by cases b <;> rfl
@[simp] theorem setContact_fault (b : BtnId) (v : Bool) (s : State) : (setContact b v s).fault = s.fault := by cases b <;> rfl
@[simp] theorem setContact_faultCause (b : BtnId) (v : Bool) (s : State) : (setContact b v s).faultCause = s.faultCause := by cases b <;> rfl
@[simp] theorem setContact_waiting (b : BtnId) (v : Bool) (s : State) : (setContact b v s).waiting = s.waiting := by cases b <;> rfl
@[simp] theorem setContact_rsp (b : BtnId) (v : Bool) (s : State) : (setContact b v s).rsp = s.rsp := by cases b <;> rfl
@[simp] theorem setContact_wrapClr (b : BtnId) (v : Bool) (s : State) : (setContact b v s).wrapClr = s.wrapClr := by cases b <;> rfl
@[simp] theorem setContact_hwt (b : BtnId) (v : Bool) (s : State) : (setContact b v s).hwt = s.hwt := by cases b <;> rfl
@[simp] theorem setContact_env (b : BtnId) (v : Bool) (s : State) : (setContact b v s).env = s.env := by cases b <;> rfl

/-! ### `hwtGap` -/

@[simp] theorem hwtGap_cfg (s : State) : (hwtGap s).cfg = s.cfg := rfl
@[simp] theorem hwtGap_clk (s : State) : (hwtGap s).clk = s.clk := rfl
@[simp] theorem hwtGap_btn0 (s : State) : (hwtGap s).btn0 = s.btn0 := rfl
@[simp] theorem hwtGap_btn1 (s : State) : (hwtGap s).btn1 = s.btn1 := rfl
@[simp] theorem hwtGap_eng (s : State) : (hwtGap s).eng = s.eng := rfl
@[simp] theorem hwtGap_dsp (s : State) : (hwtGap s).dsp = s.dsp := rfl
@[simp] theorem hwtGap_fault (s : State) : (hwtGap s).fault = s.fault := rfl
@[simp] theorem hwtGap_faultCause (s : State) : (hwtGap s).faultCause = s.faultCause := rfl
@[simp] theorem hwtGap_waiting (s : State) : (hwtGap s).waiting = s.waiting := rfl
@[simp] theorem hwtGap_rsp (s : State) : (hwtGap s).rsp = s.rsp := rfl
@[simp] theorem hwtGap_wrapClr (s : State) : (hwtGap s).wrapClr = s.wrapClr := rfl
@[simp] theorem hwtGap_hwt (s : State) : (hwtGap s).hwt = s.hwt.advance (maxCount s.par) (gapCount s) := rfl
@[simp] theorem hwtGap_env (s : State) : (hwtGap s).env = s.env.drawGap := rfl
@[simp] theorem hwtGap_contacts (s : State) : (hwtGap s).contacts = s.contacts := rfl

/-! ### `resetBlock` -/

@[simp] theorem resetBlock_cfg (s : State) : (resetBlock s).cfg = s.cfg := rfl
@[simp] theorem resetBlock_clk (s : State) : (resetBlock s).clk = Clk.reset := rfl
@[simp] theorem resetBlock_btn0 (s : State) : (resetBlock s).btn0 = Btn.reset := rfl
@[simp] theorem resetBlock_btn1 (s : State) : (resetBlock s).btn1 = Btn.reset := rfl
@[simp] theorem resetBlock_eng (s : State) : (resetBlock s).eng = Eng.reset := rfl
@[simp] theorem resetBlock_dsp (s : State) : (resetBlock s).dsp = Dsp.reset := rfl
@[simp] theorem resetBlock_fault (s : State) : (resetBlock s).fault = false := rfl
@[simp] theorem resetBlock_faultCause (s : State) : (resetBlock s).faultCause = 0 := rfl
@[simp] theorem resetBlock_waiting (s : State) : (resetBlock s).waiting = false := rfl
@[simp] theorem resetBlock_rsp (s : State) : (resetBlock s).rsp = none := rfl
@[simp] theorem resetBlock_wrapClr (s : State) : (resetBlock s).wrapClr = false := rfl
@[simp] theorem resetBlock_hwt (s : State) : (resetBlock s).hwt = s.hwt := rfl
@[simp] theorem resetBlock_contacts (s : State) : (resetBlock s).contacts = s.contacts := rfl
@[simp] theorem resetBlock_env (s : State) : (resetBlock s).env = s.env := rfl

/-! ### `clockStart` -/

@[simp] theorem clockStart_cfg (s : State) : (clockStart s).cfg = s.cfg := rfl
@[simp] theorem clockStart_clk (s : State) : (clockStart s).clk = ⟨true, 0, 0, 0⟩ := rfl
@[simp] theorem clockStart_btn0 (s : State) : (clockStart s).btn0 = s.btn0 := rfl
@[simp] theorem clockStart_btn1 (s : State) : (clockStart s).btn1 = s.btn1 := rfl
@[simp] theorem clockStart_eng (s : State) : (clockStart s).eng = s.eng := rfl
@[simp] theorem clockStart_dsp (s : State) : (clockStart s).dsp = s.dsp := rfl
@[simp] theorem clockStart_fault (s : State) : (clockStart s).fault = s.fault := rfl
@[simp] theorem clockStart_faultCause (s : State) : (clockStart s).faultCause = s.faultCause := rfl
@[simp] theorem clockStart_waiting (s : State) : (clockStart s).waiting = s.waiting := rfl
@[simp] theorem clockStart_rsp (s : State) : (clockStart s).rsp = s.rsp := rfl
@[simp] theorem clockStart_wrapClr (s : State) : (clockStart s).wrapClr = true := rfl
@[simp] theorem clockStart_hwt (s : State) : (clockStart s).hwt = ⟨0, false⟩ := rfl
@[simp] theorem clockStart_contacts (s : State) : (clockStart s).contacts = s.contacts := rfl
@[simp] theorem clockStart_env (s : State) : (clockStart s).env = s.env := rfl

/-! ### `clockFail` -/

@[simp] theorem clockFail_cfg (s : State) : (clockFail s).cfg = s.cfg := rfl
@[simp] theorem clockFail_clk (s : State) : (clockFail s).clk = { s.clk with clkValid := false } := rfl
@[simp] theorem clockFail_btn0 (s : State) : (clockFail s).btn0 = s.btn0 := rfl
@[simp] theorem clockFail_btn1 (s : State) : (clockFail s).btn1 = s.btn1 := rfl
@[simp] theorem clockFail_eng (s : State) : (clockFail s).eng = s.eng := rfl
@[simp] theorem clockFail_dsp (s : State) : (clockFail s).dsp = s.dsp := rfl
@[simp] theorem clockFail_fault (s : State) : (clockFail s).fault = s.fault := rfl
@[simp] theorem clockFail_faultCause (s : State) : (clockFail s).faultCause = s.faultCause := rfl
@[simp] theorem clockFail_waiting (s : State) : (clockFail s).waiting = s.waiting := rfl
@[simp] theorem clockFail_rsp (s : State) : (clockFail s).rsp = s.rsp := rfl
@[simp] theorem clockFail_wrapClr (s : State) : (clockFail s).wrapClr = s.wrapClr := rfl
@[simp] theorem clockFail_hwt (s : State) : (clockFail s).hwt = s.hwt := rfl
@[simp] theorem clockFail_contacts (s : State) : (clockFail s).contacts = s.contacts := rfl
@[simp] theorem clockFail_env (s : State) : (clockFail s).env = s.env := rfl

/-! ### `setBtn` -/

@[simp] theorem setBtn_cfg (s : State) (b : BtnId) (B : Btn) : (s.setBtn b B).cfg = s.cfg := by cases b <;> rfl
@[simp] theorem setBtn_clk (s : State) (b : BtnId) (B : Btn) : (s.setBtn b B).clk = s.clk := by cases b <;> rfl
@[simp] theorem setBtn_eng (s : State) (b : BtnId) (B : Btn) : (s.setBtn b B).eng = s.eng := by cases b <;> rfl
@[simp] theorem setBtn_dsp (s : State) (b : BtnId) (B : Btn) : (s.setBtn b B).dsp = s.dsp := by cases b <;> rfl
@[simp] theorem setBtn_fault (s : State) (b : BtnId) (B : Btn) : (s.setBtn b B).fault = s.fault := by cases b <;> rfl
@[simp] theorem setBtn_faultCause (s : State) (b : BtnId) (B : Btn) : (s.setBtn b B).faultCause = s.faultCause := by cases b <;> rfl
@[simp] theorem setBtn_waiting (s : State) (b : BtnId) (B : Btn) : (s.setBtn b B).waiting = s.waiting := by cases b <;> rfl
@[simp] theorem setBtn_rsp (s : State) (b : BtnId) (B : Btn) : (s.setBtn b B).rsp = s.rsp := by cases b <;> rfl
@[simp] theorem setBtn_wrapClr (s : State) (b : BtnId) (B : Btn) : (s.setBtn b B).wrapClr = s.wrapClr := by cases b <;> rfl
@[simp] theorem setBtn_hwt (s : State) (b : BtnId) (B : Btn) : (s.setBtn b B).hwt = s.hwt := by cases b <;> rfl
@[simp] theorem setBtn_contacts (s : State) (b : BtnId) (B : Btn) : (s.setBtn b B).contacts = s.contacts := by cases b <;> rfl
@[simp] theorem setBtn_env (s : State) (b : BtnId) (B : Btn) : (s.setBtn b B).env = s.env := by cases b <;> rfl

/-- Reading back the button just written. -/
@[simp] theorem setBtn_btn_same (s : State) (b : BtnId) (B : Btn) : (s.setBtn b B).btn b = B := by cases b <;> rfl

/-- The other button keeps its record (41_button.md: the two share nothing). -/
theorem setBtn_btn_other (s : State) {b c : BtnId} (h : c ≠ b) (B : Btn) : (s.setBtn b B).btn c = s.btn c := by
  cases b <;> cases c <;> first | rfl | exact absurd rfl h

@[simp] theorem setBtn_btn_self (s : State) (b : BtnId) : s.setBtn b (s.btn b) = s := by cases b <;> rfl

@[simp] theorem setBtn_b0 (s : State) (B : Btn) : s.setBtn .b0 B = { s with btn0 := B } := rfl

@[simp] theorem setBtn_b1 (s : State) (B : Btn) : s.setBtn .b1 B = { s with btn1 := B } := rfl

@[simp] theorem btn_b0 (s : State) : s.btn .b0 = s.btn0 := rfl

@[simp] theorem btn_b1 (s : State) : s.btn .b1 = s.btn1 := rfl

@[simp] theorem samplePressed_b0 (s : State) : samplePressed .b0 s = s.contacts.pressed0 := rfl

@[simp] theorem samplePressed_b1 (s : State) : samplePressed .b1 s = s.contacts.pressed1 := rfl

/-- A contact reads as it was last set. -/
@[simp] theorem samplePressed_setContact (b : BtnId) (v : Bool) (s : State) :
    samplePressed b (setContact b v s) = v := by cases b <;> rfl

@[simp] theorem btn_setContact (b c : BtnId) (v : Bool) (s : State) : (setContact b v s).btn c = s.btn c := by
  cases b <;> cases c <;> rfl

/-- A response is determined by the status and the data it carries. -/
theorem respond_eq (st : Status) (d : Nat) (s : State) :
    respond st d s = { s with rsp := some ⟨st, d % 2 ^ s.par.msW⟩ } := rfl

/-- A refusal carries no data and changes nothing else (30_encoding.md R78). -/
theorem refuse_eq (st : Status) (s : State) : refuse st s = { s with rsp := some ⟨st, 0⟩ } := by
  simp [refuse, respond]

end Sys2Proof.Machine
end

