-- ==== Sys2Proof/Laws/Button.lean ====
section
/-! SUPPORT. What one evaluation of the debouncer does, said once (41_button.md R121). -/

namespace Sys2Proof.Machine

/-- A hold: the level event, no change. -/
theorem buttonEval_hold {B : Btn} {now : Nat} (h : B.holds now = true) (msW delay : Nat) (p : Bool) :
    buttonEval msW delay B now p = (levelEvent B.level, B) := by
  simp [buttonEval, h]

/-- No hold, and the sample is the remembered level. -/
theorem buttonEval_level {B : Btn} {now : Nat} (h : B.holds now = false) (msW delay : Nat) :
    buttonEval msW delay B now B.level = (levelEvent B.level, { B with debValid := false }) := by
  simp [buttonEval, buttonSampled, h]

/-- No hold, the sample differs, and there is a window. -/
theorem buttonEval_edge {B : Btn} {now delay : Nat} {p : Bool} (h : B.holds now = false) (hp : p ≠ B.level)
    (hd : 0 < delay) (msW : Nat) :
    buttonEval msW delay B now p = (edgeEvent p, { level := p, debValid := true, debUntil := wrapAdd msW now delay }) := by
  simp [buttonEval, buttonSampled, h, hp, hd]

/-- No hold, the sample differs, and debouncing is disabled. -/
theorem buttonEval_edge_zero {B : Btn} {now : Nat} {p : Bool} (h : B.holds now = false) (hp : p ≠ B.level) (msW : Nat) :
    buttonEval msW 0 B now p = (edgeEvent p, { B with level := p, debValid := false }) := by
  simp [buttonEval, buttonSampled, h, hp]

/-- An evaluation keeps the record, closes the window, or opens one. -/
theorem buttonEval_cases (msW delay : Nat) (B : Btn) (now : Nat) (p : Bool) :
    (B.holds now = true ∧ buttonEval msW delay B now p = (levelEvent B.level, B)) ∨
    (B.holds now = false ∧ p = B.level ∧
      buttonEval msW delay B now p = (levelEvent p, { B with debValid := false })) ∨
    (B.holds now = false ∧ p ≠ B.level ∧ 0 < delay ∧ buttonEval msW delay B now p =
      (edgeEvent p, { level := p, debValid := true, debUntil := wrapAdd msW now delay })) ∨
    (B.holds now = false ∧ p ≠ B.level ∧ delay = 0 ∧
      buttonEval msW delay B now p = (edgeEvent p, { B with level := p, debValid := false })) := by
  cases hh : B.holds now
  · right
    by_cases hp : p = B.level
    · subst hp
      exact .inl ⟨rfl, rfl, buttonEval_level hh msW delay⟩
    · right
      by_cases hd : 0 < delay
      · exact .inl ⟨rfl, hp, hd, buttonEval_edge hh hp hd msW⟩
      · obtain rfl : delay = 0 := by omega
        exact .inr ⟨rfl, hp, rfl, buttonEval_edge_zero hh hp msW⟩
  · exact .inl ⟨rfl, buttonEval_hold hh msW delay p⟩

/-- A deadline that fits stays one that fits. -/
theorem buttonEval_debUntil_lt {msW : Nat} {B : Btn} (h : B.debUntil < 2 ^ msW) (delay now : Nat) (p : Bool) :
    (buttonEval msW delay B now p).2.debUntil < 2 ^ msW := by
  rcases buttonEval_cases msW delay B now p with ⟨-, e⟩ | ⟨-, -, e⟩ | ⟨-, -, -, e⟩ | ⟨-, -, -, e⟩ <;> rw [e]
  · exact h
  · exact h
  · exact wrapAdd_lt _ _ _
  · exact h

/-- With no window, an evaluation that finds no deadline stores none. -/
theorem buttonEval_debValid_zero {B : Btn} (h : B.debValid = false) (msW now : Nat) (p : Bool) :
    (buttonEval msW 0 B now p).2.debValid = false := by
  rcases buttonEval_cases msW 0 B now p with ⟨-, e⟩ | ⟨-, -, e⟩ | ⟨-, -, hd, -⟩ | ⟨-, -, -, e⟩
  · rw [e]; exact h
  · rw [e]
  · exact absurd hd (lt_irrefl 0)
  · rw [e]

/-- The codes of the events fit two bits. -/
theorem ButtonEvent.code_lt (e : ButtonEvent) : e.code < 4 := by cases e <;> decide

/-- The code of an event tells it. -/
theorem ButtonEvent.code_eq_three {e : ButtonEvent} : e.code = 3 ↔ e = .push := by cases e <;> decide

theorem levelEvent_code (l : Bool) : (levelEvent l).code = if l then 2 else 0 := by cases l <;> decide

theorem edgeEvent_code (l : Bool) : (edgeEvent l).code = if l then 3 else 1 := by cases l <;> decide

theorem levelEvent_ne_push (l : Bool) : levelEvent l ≠ .push := by cases l <;> decide

end Sys2Proof.Machine
end

