-- ==== Sys2Proof/Laws/Clock.lean ====
section
/-! SUPPORT. What HWT, the gaps, the wait and the double read do, said once (40_clock.md). -/

namespace Sys2Proof.Machine

/-! ### HWT (R101) -/

/-- The phase after an advance, where the counter's period fits its 24 bits. -/
theorem advance_phase {max : Nat} (hm : max < 2 ^ 24) (k : Nat) (h : Hwt) :
    (h.advance max k).phase.toNat = (h.phase.toNat + k) % (max + 1) := by
  have hlt : (h.phase.toNat + k) % (max + 1) < max + 1 := Nat.mod_lt _ (Nat.succ_pos max)
  simp only [Hwt.advance, BitVec.toNat_ofNat]
  exact Nat.mod_eq_of_lt (by omega)

/-- The flag after an advance: set when it was, or when the advance passes `max`. -/
theorem advance_wrapf (max k : Nat) (h : Hwt) :
    (h.advance max k).wrapf = (h.wrapf || decide (max < h.phase.toNat + k)) := by
  simp only [Hwt.advance]
  congr 1
  rw [decide_eq_decide, Nat.le_div_iff_mul_le (Nat.succ_pos max)]
  omega

/-- The phase stays in `0 .. max`. -/
theorem advance_phase_le {max : Nat} (hm : max < 2 ^ 24) (k : Nat) (h : Hwt) : (h.advance max k).phase.toNat ≤ max := by
  rw [advance_phase hm]
  exact Nat.le_of_lt_succ (Nat.mod_lt _ (Nat.succ_pos max))

/-- An advance that stays within the period adds to the phase. -/
theorem advance_phase_of_le {max k : Nat} {h : Hwt} (hk : h.phase.toNat + k ≤ max) :
    (h.advance max k).phase.toNat = (h.phase.toNat + k) % 2 ^ 24 := by
  simp only [Hwt.advance, BitVec.toNat_ofNat]
  rw [Nat.mod_eq_of_lt (Nat.lt_succ_of_le hk)]

theorem maxCount_lt {p : Params} (h : reloadOk p = true) : maxCount p < 2 ^ 24 := by
  obtain ⟨-, h⟩ := (reloadOk_iff p).mp h
  exact Nat.lt_of_le_of_lt h (by decide)

/-! ### The gaps (20_memory.md R57) -/

theorem hwtGap_listed {s : State} {k : Nat} {ks : List Nat} (h : s.env.draws = k :: ks) :
    hwtGap s = { s with hwt := s.hwt.advance (maxCount s.par) k, env := { s.env with draws := ks } } := by
  simp only [hwtGap, gapCount, Env.drawGap, h]
  rfl

/-! ### The wait (R103, R104) -/

/-- A poll that finds the flag clear changes nothing. -/
theorem pollWait_clear {s : State} (h : s.hwt.wrapf = false) : pollWait s = s := by
  simp [pollWait, peekWrapFlag, h]

/-- A poll that finds the flag set ends the wait. -/
theorem pollWait_set {s : State} (h : s.hwt.wrapf = true) : pollWait s = waitEnd s := by
  simp [pollWait, peekWrapFlag, h]

theorem waitEnd_coarse {s : State} (h : s.par.variant = .coarse) :
    waitEnd s = respond .ok 0 { coarseTick s with waiting := false } := by
  simp [waitEnd, h]

theorem waitEnd_fine {s : State} (h : s.par.variant = .fine) :
    waitEnd s = respond .ok 0 { s with waiting := false } := by
  simp [waitEnd, h]

/-- The end of a wait: no command in progress, and an empty `OK` response. -/
theorem waitEnd_answers (s : State) : (waitEnd s).waiting = false ∧ (waitEnd s).rsp = some ⟨.ok, 0⟩ := by
  cases h : s.par.variant <;> simp [waitEnd, h]

@[simp] theorem waitEnd_cfg (s : State) : (waitEnd s).cfg = s.cfg := by
  cases h : s.par.variant <;> simp [waitEnd, h, coarseTick]

@[simp] theorem pollWait_cfg (s : State) : (pollWait s).cfg = s.cfg := by
  unfold pollWait
  split
  · exact waitEnd_cfg s
  · rfl

/-- A poll, said once: nothing happens, or the wait ends. -/
theorem pollWait_cases (s : State) : (s.hwt.wrapf = false ∧ pollWait s = s) ∨
    ((pollWait s).waiting = false ∧ (pollWait s).rsp = some ⟨.ok, 0⟩) := by
  cases h : s.hwt.wrapf
  · exact .inl ⟨rfl, pollWait_clear h⟩
  · exact .inr (pollWait_set h ▸ waitEnd_answers s)

/-- The end of a coarse wait: one period more, the flag cleared by its pulse, HWT moved by one gap. -/
theorem coarseTick_eq (s : State) : coarseTick s = { hwtGap s with
    hwt := { (hwtGap s).hwt with wrapf := false }, wrapClr := true,
    clk := { s.clk with msAcc := wrapAdd s.par.msW s.clk.msAcc s.par.tickPeriod } } := by
  simp [coarseTick, readClearWrapFlag]

/-! ### The double read (R107) -/

/-- Both branches of the delta as one exact integer. -/
theorem fineDelta_eq (max : Nat) (last s1 : Cnt) (f : Bool) (s2 : Cnt) :
    fineDelta max last s1 f s2 = BitVec.ofInt 64
      (if f = true ∨ s2 < s1 then ((max : Int) - last.toNat) + s2.toNat else (s2.toNat : Int) - last.toNat) := by
  unfold fineDelta wrapDelta wrapSub64
  by_cases h : f = true ∨ s2 < s1
  · rw [if_pos h, if_pos (by simpa using h)]
  · rw [if_neg h, if_neg (by simpa using h)]
    have hofInt : ∀ x : Cnt, BitVec.ofInt 64 (x.toNat : Int) = x.setWidth 64 := by
      intro x
      apply BitVec.eq_of_toNat_eq
      simp
    rw [← hofInt, ← hofInt]
    apply BitVec.eq_of_toInt_eq
    simp

end Sys2Proof.Machine
end

