-- ==== Sys2Proof/Laws/Decode.lean ====
section
/-! SUPPORT. The fields of a packed word, and what a decoded word says of its operation (30_encoding.md R71 to R73). -/

namespace Sys2Proof

theorem pow_add_six (msW : Nat) : 2 ^ (msW + 6) = 2 ^ msW * 64 := by rw [Nat.pow_add]

theorem pow_add_eight (msW : Nat) : 2 ^ (msW + 8) = 2 ^ msW * 256 := by rw [Nat.pow_add]

theorem pow_add_twelve (msW : Nat) : 2 ^ (msW + 12) = 2 ^ msW * 4096 := by rw [Nat.pow_add]

/-- A packed word, with the time operand apart from the bits above it. -/
theorem packWord_eq (msW op a t : Nat) : packWord msW op a t = 2 ^ msW * (op * 256 + a) + t := by
  unfold packWord
  rw [pow_add_eight]
  ring

/-- The bits of a packed word above the time operand. -/
theorem packWord_div {msW op a t : Nat} (ht : t < 2 ^ msW) : packWord msW op a t / 2 ^ msW = op * 256 + a := by
  rw [packWord_eq, Nat.mul_add_div (Nat.two_pow_pos msW), Nat.div_eq_of_lt ht, Nat.add_zero]

theorem fieldT_packWord {msW op a t : Nat} (ht : t < 2 ^ msW) : fieldT msW (packWord msW op a t) = t := by
  unfold fieldT
  rw [packWord_eq, Nat.mul_add_mod, Nat.mod_eq_of_lt ht]

theorem fieldA_packWord {msW op a t : Nat} (ha : a < 64) (ht : t < 2 ^ msW) :
    fieldA msW (packWord msW op a t) = a := by
  unfold fieldA
  rw [packWord_div ht]
  omega

theorem fieldZ_packWord {msW op a t : Nat} (ha : a < 64) (ht : t < 2 ^ msW) :
    fieldZ msW (packWord msW op a t) = 0 := by
  unfold fieldZ
  rw [pow_add_six, ← Nat.div_div_eq_div_mul, packWord_div ht]
  omega

theorem fieldOp_packWord {msW op a t : Nat} (hop : op < 16) (ha : a < 64) (ht : t < 2 ^ msW) :
    fieldOp msW (packWord msW op a t) = op := by
  unfold fieldOp
  rw [pow_add_eight, ← Nat.div_div_eq_div_mul, packWord_div ht]
  omega

theorem packWord_lt {msW op a t : Nat} (hop : op < 16) (ha : a < 64) (ht : t < 2 ^ msW) :
    packWord msW op a t < 2 ^ (msW + 12) := by
  rw [packWord_eq, pow_add_twelve]
  have : 2 ^ msW * (op * 256 + a + 1) ≤ 2 ^ msW * 4096 := Nat.mul_le_mul_left _ (by omega)
  have e : 2 ^ msW * (op * 256 + a + 1) = 2 ^ msW * (op * 256 + a) + 2 ^ msW := by ring
  omega

theorem packWord_notWide {msW op a t : Nat} (hop : op < 16) (ha : a < 64) (ht : t < 2 ^ msW) :
    packWord msW op a t / 2 ^ (msW + 12) = 0 := Nat.div_eq_of_lt (packWord_lt hop ha ht)

/-- A word of the port with `z = 0` is the packing of its other fields. -/
theorem packWord_fields {msW w : Nat} (hw : w / 2 ^ (msW + 12) = 0) (hz : fieldZ msW w = 0) :
    packWord msW (fieldOp msW w) (fieldA msW w) (fieldT msW w) = w := by
  rw [packWord_eq]
  unfold fieldZ at hz
  unfold fieldOp fieldA fieldT
  rw [pow_add_twelve, ← Nat.div_div_eq_div_mul] at hw
  rw [pow_add_six, ← Nat.div_div_eq_div_mul] at hz
  rw [pow_add_eight, ← Nat.div_div_eq_div_mul]
  have h := Nat.div_add_mod w (2 ^ msW)
  have e : w / 2 ^ msW / 256 % 16 * 256 + w / 2 ^ msW % 64 = w / 2 ^ msW := by
    generalize w / 2 ^ msW = q at *
    omega
  rw [e]
  exact h

theorem fieldT_lt (msW w : Nat) : fieldT msW w < 2 ^ msW := Nat.mod_lt _ (Nat.two_pow_pos msW)

theorem fieldA_lt (msW w : Nat) : fieldA msW w < 64 := Nat.mod_lt _ (by omega)

theorem fieldOp_lt (msW w : Nat) : fieldOp msW w < 16 := Nat.mod_lt _ (by omega)

theorem Instr.op_lt (i : Instr) : i.op < 16 := by cases i <;> simp [Instr.op]

@[simp] theorem BtnId.ofCode_code (b : BtnId) : BtnId.ofCode b.code = b := by cases b <;> rfl

theorem BtnId.code_lt (b : BtnId) : b.code < 2 := by cases b <;> decide

theorem BtnId.code_ofCode {c : Nat} (h : c < 2) : (BtnId.ofCode c).code = c := by
  interval_cases c <;> rfl

theorem BlinkKind.code_lt (k : BlinkKind) : k.code < 4 := by cases k <;> decide

/-- The kind of a code `n * 4 + kind` (format D). -/
theorem BlinkKind.ofCode_add (n : Nat) (k : BlinkKind) : BlinkKind.ofCode (n * 4 + k.code) = k := by
  have h : (n * 4 + k.code) % 4 = k.code := by have := k.code_lt; omega
  unfold BlinkKind.ofCode
  rw [h]
  cases k <;> rfl

theorem BlinkKind.code_ofCode (a : Nat) : (BlinkKind.ofCode a).code = a % 4 := by
  unfold BlinkKind.ofCode
  have h : a % 4 < 4 := Nat.mod_lt _ (by omega)
  generalize a % 4 = r at *
  interval_cases r <;> rfl

theorem decodeN_ok {a t : Nat} {i j : Instr} (h : decodeN a t i = .ok j) : a = 0 ∧ t = 0 ∧ j = i := by
  unfold decodeN at h
  split at h
  · cases h
  · split at h
    · cases h
    · injection h with h
      exact ⟨by omega, by omega, h.symm⟩

theorem decodeT_ok {a t : Nat} {j : Instr} (h : decodeT a t = .ok j) : a = 0 ∧ j = .engUpdate t := by
  unfold decodeT at h
  split at h
  · cases h
  · injection h with h
    exact ⟨by omega, h.symm⟩

theorem decodeB_ok {a t : Nat} {j : Instr} (h : decodeB a t = .ok j) :
    a < 2 ∧ j = .btnUpdate (BtnId.ofCode a) t := by
  unfold decodeB at h
  split at h
  · cases h
  · injection h with h
    exact ⟨by omega, h.symm⟩

/-- Decoding a packed word is decoding its fields. -/
theorem decode_packWord {msW op a t : Nat} (hop : op < 16) (ha : a < 64) (ht : t < 2 ^ msW) :
    decode msW (packWord msW op a t) = decodeOp op a t := by
  unfold decode
  rw [if_neg (not_not.mpr (packWord_notWide hop ha ht)), if_neg (not_not.mpr (fieldZ_packWord ha ht)),
    fieldOp_packWord hop ha ht, fieldA_packWord ha ht, fieldT_packWord ht]

/-- What a decoded word says: it is a word of the port with `z = 0`, and the format of its code decoded the rest. -/
theorem decode_ok {msW w : Nat} {i : Instr} (h : decode msW w = .ok i) :
    w / 2 ^ (msW + 12) = 0 ∧ fieldZ msW w = 0 ∧
    ((fieldOp msW w = 0 ∧ decodeN (fieldA msW w) (fieldT msW w) .clkInit = .ok i) ∨
     (fieldOp msW w = 1 ∧ decodeN (fieldA msW w) (fieldT msW w) .clkWait = .ok i) ∨
     (fieldOp msW w = 2 ∧ decodeN (fieldA msW w) (fieldT msW w) .clkNow = .ok i) ∨
     (fieldOp msW w = 3 ∧ decodeN (fieldA msW w) (fieldT msW w) .fclkNow = .ok i) ∨
     (fieldOp msW w = 4 ∧ decodeB (fieldA msW w) (fieldT msW w) = .ok i) ∨
     (fieldOp msW w = 5 ∧ decodeT (fieldA msW w) (fieldT msW w) = .ok i) ∨
     (fieldOp msW w = 6 ∧ decodeN (fieldA msW w) (fieldT msW w) .engAddtime = .ok i) ∨
     (fieldOp msW w = 7 ∧ decodeN (fieldA msW w) (fieldT msW w) .engDirective = .ok i) ∨
     (fieldOp msW w = 8 ∧ decodeD (fieldA msW w) (fieldT msW w) = .ok i)) := by
  unfold decode at h
  split at h
  · cases h
  · split at h
    · cases h
    · rename_i h1 h2
      refine ⟨not_not.mp h1, not_not.mp h2, ?_⟩
      have hop := fieldOp_lt msW w
      unfold decodeOp at h
      generalize fieldOp msW w = op at *
      interval_cases op <;> simp_all

/-- The time operand of a decoded operation is an `Ms` value. -/
theorem decode_time_lt {msW w now : Nat} {i : Instr} (h : decode msW w = .ok i) (ht : i.time = some now) :
    now < 2 ^ msW := by
  have hT := fieldT_lt msW w
  obtain ⟨-, -, hc⟩ := decode_ok h
  rcases hc with ⟨-, h⟩ | ⟨-, h⟩ | ⟨-, h⟩ | ⟨-, h⟩ | ⟨-, h⟩ | ⟨-, h⟩ | ⟨-, h⟩ | ⟨-, h⟩ | ⟨-, h⟩
  · obtain ⟨-, -, rfl⟩ := decodeN_ok h; cases ht
  · obtain ⟨-, -, rfl⟩ := decodeN_ok h; cases ht
  · obtain ⟨-, -, rfl⟩ := decodeN_ok h; cases ht
  · obtain ⟨-, -, rfl⟩ := decodeN_ok h; cases ht
  · obtain ⟨-, rfl⟩ := decodeB_ok h; cases ht; exact hT
  · obtain ⟨-, rfl⟩ := decodeT_ok h; cases ht; exact hT
  · obtain ⟨-, -, rfl⟩ := decodeN_ok h; cases ht
  · obtain ⟨-, -, rfl⟩ := decodeN_ok h; cases ht
  · cases h; cases ht; exact hT

/-- A decoded operation has a word on the command port: none of the four of format I is decoded. -/
theorem decode_hostCommand {msW w : Nat} {i : Instr} (h : decode msW w = .ok i) : i.hostCommand = true := by
  obtain ⟨-, -, hc⟩ := decode_ok h
  rcases hc with ⟨-, h⟩ | ⟨-, h⟩ | ⟨-, h⟩ | ⟨-, h⟩ | ⟨-, h⟩ | ⟨-, h⟩ | ⟨-, h⟩ | ⟨-, h⟩ | ⟨-, h⟩
  · obtain ⟨-, -, rfl⟩ := decodeN_ok h; rfl
  · obtain ⟨-, -, rfl⟩ := decodeN_ok h; rfl
  · obtain ⟨-, -, rfl⟩ := decodeN_ok h; rfl
  · obtain ⟨-, -, rfl⟩ := decodeN_ok h; rfl
  · obtain ⟨-, rfl⟩ := decodeB_ok h; rfl
  · obtain ⟨-, rfl⟩ := decodeT_ok h; rfl
  · obtain ⟨-, -, rfl⟩ := decodeN_ok h; rfl
  · obtain ⟨-, -, rfl⟩ := decodeN_ok h; rfl
  · cases h; rfl

end Sys2Proof
end

