-- ==== Sys2Proof/Laws/Ring.lean ====
section
/-! SUPPORT. Writing LEDs (20_memory.md R51): one LED, and all of them. -/

namespace Sys2Proof.Machine

/-- One write changes one LED. -/
theorem ledWrite_getLsbD (r : Ring) {i : Nat} (hi : i < 8) (v : Bool) (j : Nat) :
    (ledWrite r i v).getLsbD j = if j = i then v else r.getLsbD j := by
  unfold ledWrite
  cases v
  · by_cases h : j = i
    · subst h; simp
    · by_cases hj : j < 8
      · simp [h, hj]
      · simp [h, BitVec.getLsbD_of_ge _ _ (Nat.le_of_not_lt hj)]
  · by_cases h : j = i
    · subst h; simp [hi]
    · simp [h, Ne.symm h]

/-- Writing the LEDs of a list: those of the list take `f`, the others keep their level. -/
theorem foldl_ledWrite_getLsbD (f : Nat → Bool) (j : Nat) (l : List Nat) (hl : ∀ i ∈ l, i < 8) (r : Ring) :
    (l.foldl (fun r i => ledWrite r i (f i)) r).getLsbD j = if j ∈ l then f j else r.getLsbD j := by
  induction l generalizing r with
  | nil => simp
  | cons i is ih =>
    rw [List.foldl_cons, ih (fun k hk => hl k (List.mem_cons_of_mem _ hk)),
      ledWrite_getLsbD r (hl i List.mem_cons_self)]
    by_cases h1 : j ∈ is
    · simp [h1]
    · by_cases h2 : j = i
      · subst h2; simp
      · simp [h1, h2]

/-- Writing every LED: LED `j` takes `f j`, whatever the ring showed. -/
theorem ledWriteAll_getLsbD (r : Ring) (f : Nat → Bool) {j : Nat} (hj : j < 8) :
    (ledWriteAll r f).getLsbD j = f j := by
  unfold ledWriteAll
  rw [foldl_ledWrite_getLsbD f j _ (fun i hi => List.mem_range.mp hi)]
  simp [hj]

/-- Two rings that show the same eight levels are equal. -/
theorem ring_ext {a b : Ring} (h : ∀ i < 8, a.getLsbD i = b.getLsbD i) : a = b :=
  BitVec.eq_of_getLsbD_eq fun i hi => h i hi

/-- `SOLID.RESYNC` (43_display.md R163). -/
theorem resync_led (n : BitVec 4) (d : Dsp) {i : Nat} (hi : i < 8) :
    (resync n d).led.getLsbD i = decide (i < n.toNat) := ledWriteAll_getLsbD _ _ hi

end Sys2Proof.Machine
end

