-- ==== Sys2Proof/Laws/Display.lean ====
section
/-! SUPPORT. What a frame and its sub-operations do, said once (43_display.md). -/

namespace Sys2Proof.Machine

/-! ### Toggling (R168) -/

/-- The LED that blinks is inverted, the others keep their level. -/
theorem toggle_led (p : Params) (isFast : Bool) (d : Dsp) (i : Nat) :
    (toggle p isFast d).led.getLsbD i = if i = d.blIdx.toNat then !d.led.getLsbD i else d.led.getLsbD i := by
  have hb : d.blIdx.toNat < 8 := d.blIdx.isLt
  simp only [toggle, ledWrite_getLsbD d.led hb]
  split
  · rename_i h; rw [h]
  · rfl

/-- Stopping forces the blinking LED off. -/
theorem blinkStop_led (d : Dsp) (i : Nat) :
    (blinkStop d).led.getLsbD i = if i = d.blIdx.toNat then false else d.led.getLsbD i :=
  ledWrite_getLsbD d.led d.blIdx.isLt false i

/-! ### Blinky (R165) -/

theorem blinky_none_none {d : Dsp} (h : d.blValid = false) (p : Params) (isFast : Bool) (now : Nat) :
    blinky p none isFast now d = d := by simp [blinky, h]

theorem blinky_some_none {d : Dsp} (h : d.blValid = true) (p : Params) (isFast : Bool) (now : Nat) :
    blinky p none isFast now d = blinkStop d := by simp [blinky, h]

theorem blinky_none_some {d : Dsp} (h : d.blValid = false) (p : Params) (B : BitVec 3) (isFast : Bool) (now : Nat) :
    blinky p (some B) isFast now d = blinkStart p B isFast now d := by simp [blinky, h]

theorem blinky_due {d : Dsp} (h : d.blValid = true) {now : Nat} (hn : d.blNext ≤ now) (p : Params) (isFast : Bool) :
    blinky p (some d.blIdx) isFast now d = toggle p isFast d := by simp [blinky, h, hn]

theorem blinky_early {d : Dsp} (h : d.blValid = true) {now : Nat} (hn : now < d.blNext) (p : Params) (isFast : Bool) :
    blinky p (some d.blIdx) isFast now d = d := by simp [blinky, h, Nat.not_le.mpr hn]

theorem blinky_move {d : Dsp} (h : d.blValid = true) {B : BitVec 3} (hB : d.blIdx ≠ B) (p : Params) (isFast : Bool)
    (now : Nat) : blinky p (some B) isFast now d = blinkMove B now d := by simp [blinky, h, hB]

/-- Blinky writes neither the solid count, nor the mode, nor the all-ring schedule. -/
theorem blinky_keeps (p : Params) (newIdx : Option (BitVec 3)) (isFast : Bool) (now : Nat) (d : Dsp) :
    (blinky p newIdx isFast now d).numOn = d.numOn ∧ (blinky p newIdx isFast now d).wasAll = d.wasAll ∧
    (blinky p newIdx isFast now d).allOn = d.allOn ∧ (blinky p newIdx isFast now d).allNext = d.allNext := by
  unfold blinky
  split
  · exact ⟨rfl, rfl, rfl, rfl⟩
  · exact ⟨rfl, rfl, rfl, rfl⟩
  · exact ⟨rfl, rfl, rfl, rfl⟩
  · split
    · split <;> exact ⟨rfl, rfl, rfl, rfl⟩
    · exact ⟨rfl, rfl, rfl, rfl⟩

/-- After Blinky an LED blinks exactly when one was asked for, and it is that one. -/
theorem blinky_index (p : Params) (newIdx : Option (BitVec 3)) (isFast : Bool) (now : Nat) (d : Dsp) :
    (blinky p newIdx isFast now d).blValid = newIdx.isSome ∧
    ∀ B, newIdx = some B → (blinky p newIdx isFast now d).blIdx = B := by
  unfold blinky
  split
  · rename_i h; exact ⟨h, fun B hB => by cases hB⟩
  · exact ⟨rfl, fun B hB => by cases hB⟩
  · exact ⟨rfl, fun B hB => by cases hB; rfl⟩
  · rename_i B h
    split
    · rename_i hB
      split
      · exact ⟨h, fun C hC => by cases hC; exact hB⟩
      · exact ⟨h, fun C hC => by cases hC; exact hB⟩
    · exact ⟨h, fun C hC => by cases hC; rfl⟩

/-- A deadline that fits stays one that fits. -/
theorem blinky_next_lt {p : Params} {d : Dsp} {now : Nat} (hd : d.blNext < 2 ^ p.msW) (hn : now < 2 ^ p.msW)
    (newIdx : Option (BitVec 3)) (isFast : Bool) : (blinky p newIdx isFast now d).blNext < 2 ^ p.msW := by
  unfold blinky
  split
  · exact hd
  · exact hd
  · exact wrapAdd_lt _ _ _
  · split
    · split
      · exact wrapAdd_lt _ _ _
      · exact hd
    · exact hn

/-! ### The all-ring blink (R171) -/

theorem ledWriteAll_const (r : Ring) (v : Bool) : ledWriteAll r (fun _ => v) = if v then 0xFF else 0 := by
  apply ring_ext
  intro i hi
  rw [ledWriteAll_getLsbD r (fun _ => v) hi]
  cases v
  · simp
  · interval_cases i <;> rfl

/-! ### The frame (R161) -/

theorem frame_solidRange {n : BitVec 4} (h : 8 < n.toNat) (p : Params) (kind : BlinkKind) (now : Nat) (d : Dsp) :
    frame p n kind now d = .error .solidRange := by simp [frame, h]

theorem frame_blinkIndex {n : BitVec 4} (h : n.toNat = 8) {kind : BlinkKind} (hk : isBlink kind = true) (p : Params)
    (now : Nat) (d : Dsp) : frame p n kind now d = .error .blinkIndex := by simp [frame, h, hk]

theorem frame_all {n : BitVec 4} (h : n.toNat ≤ 8) (p : Params) (now : Nat) (d : Dsp) :
    frame p n .all now d = .ok (allUpdate p now d) := by simp [frame, Nat.not_lt.mpr h, isBlink]

theorem frame_notAll {n : BitVec 4} (h : n.toNat ≤ 8) {kind : BlinkKind} (hk : kind ≠ .all)
    (hb : isBlink kind = true → n.toNat ≠ 8) (p : Params) (now : Nat) (d : Dsp) :
    frame p n kind now d = .ok (frameNotAll p n kind now d) := by
  unfold frame
  rw [if_neg (Nat.not_lt.mpr h), if_neg (fun hc => hb hc.1 hc.2), if_neg hk]

/-- A frame is one of the two faults, an `All` frame, or another one. -/
theorem frame_cases (p : Params) (n : BitVec 4) (kind : BlinkKind) (now : Nat) (d : Dsp) :
    (8 < n.toNat ∧ frame p n kind now d = .error .solidRange) ∨
    (n.toNat = 8 ∧ isBlink kind = true ∧ frame p n kind now d = .error .blinkIndex) ∨
    (n.toNat ≤ 8 ∧ kind = .all ∧ frame p n kind now d = .ok (allUpdate p now d)) ∨
    (n.toNat ≤ 8 ∧ kind ≠ .all ∧ (isBlink kind = true → n.toNat ≤ 7) ∧
      frame p n kind now d = .ok (frameNotAll p n kind now d)) := by
  by_cases h : 8 < n.toNat
  · exact .inl ⟨h, frame_solidRange h _ _ _ _⟩
  · by_cases hb : isBlink kind = true ∧ n.toNat = 8
    · exact .inr (.inl ⟨hb.2, hb.1, frame_blinkIndex hb.2 hb.1 _ _ _⟩)
    · by_cases hk : kind = .all
      · subst hk
        exact .inr (.inr (.inl ⟨by omega, rfl, frame_all (by omega) _ _ _⟩))
      · exact .inr (.inr (.inr ⟨by omega, hk, fun hi => by
          have : n.toNat ≠ 8 := fun h8 => hb ⟨hi, h8⟩
          omega, frame_notAll (by omega) hk (fun hi h8 => hb ⟨hi, h8⟩) _ _ _⟩))

theorem blinkIndexOf_blink {k : BlinkKind} (h : isBlink k = true) (n : BitVec 4) :
    blinkIndexOf n k = some (n.setWidth 3) := by simp [blinkIndexOf, h]

theorem blinkIndexOf_noBlink {k : BlinkKind} (h : isBlink k = false) (n : BitVec 4) : blinkIndexOf n k = none := by
  simp [blinkIndexOf, h]

/-- The blinking index is the solid count, where the count is an index of the ring. -/
theorem setWidth_toNat {n : BitVec 4} (h : n.toNat ≤ 7) : (n.setWidth 3).toNat = n.toNat := by
  rw [BitVec.toNat_setWidth]
  omega

end Sys2Proof.Machine
end

