-- ==== Sys2Proof/Laws/Engine.lean ====
section
/-! SUPPORT. What the engine's steps do, said once (42_engine.md R141, R144, R146). -/

namespace Sys2Proof.Machine

/-! ### Adding time (R144) -/

theorem addTime_full {seg r : Nat} (h : 8 * seg ≤ r) : addTime seg r = seg := by simp [addTime, h]

theorem addTime_part {seg r : Nat} (h : r < 8 * seg) : addTime seg r = min (r + seg) (8 * seg) := by
  simp [addTime, Nat.not_le.mpr h]

/-- The budget never grows beyond the ring, whatever it was. -/
theorem addTime_le (seg r : Nat) : addTime seg r ≤ 8 * seg := by
  unfold addTime
  split <;> omega

/-! ### The inputs (R141 steps 1 to 3) -/

/-- The budget after the decay. -/
def decayed (now : Nat) (s : State) : Nat :=
  if s.eng.running then s.eng.remaining - (now - s.eng.lastUpdate) else s.eng.remaining

theorem decayed_le (now : Nat) (s : State) : decayed now s ≤ s.eng.remaining := by
  unfold decayed
  split <;> omega

theorem decay_eq (now : Nat) (s : State) :
    decay now s = { s with eng := { s.eng with remaining := decayed now s } } := by
  unfold decay decayed
  split
  · simp only [satSub_eq]
  · rfl

/-- The evaluation of one button in a state, at `now`. -/
def buttonResult (b : BtnId) (now : Nat) (s : State) : ButtonEvent × Btn :=
  buttonEval s.par.msW (debounceDelay s.par b) (s.btn b) now (samplePressed b s)

theorem buttonUpdate_eq (b : BtnId) (now : Nat) (s : State) :
    buttonUpdate b now s = ((buttonResult b now s).1, s.setBtn b (buttonResult b now s).2) := rfl

/-- Steps 1 to 3 at once: each button is evaluated as by its own command, and the engine takes the decay and the edges. -/
theorem engineInputs_eq (now : Nat) (s : State) : engineInputs now s = { s with
    btn0 := (buttonResult .b0 now s).2
    btn1 := (buttonResult .b1 now s).2
    eng := { s.eng with
      running := if (buttonResult .b0 now s).1 = .push then !s.eng.running else s.eng.running
      remaining := if (buttonResult .b1 now s).1 = .push then addTime s.par.segPeriod (decayed now s)
        else decayed now s } } := by
  simp only [engineInputs, decay_eq, buttonUpdate_eq]
  unfold applyEdges toggleRunning engAddTime
  by_cases h0 : (buttonResult .b0 now s).1 = .push <;> by_cases h1 : (buttonResult .b1 now s).1 = .push
  all_goals
    simp only [buttonResult, State.par, btn_b0, btn_b1, samplePressed_b0, samplePressed_b1, setBtn_b0, setBtn_b1] at *
    simp [h0, h1]

/-- The inputs keep the budget on the ring. -/
theorem engineInputs_remaining_le {s : State} (h : s.eng.remaining ≤ 8 * s.par.segPeriod) (now : Nat) :
    (engineInputs now s).eng.remaining ≤ 8 * s.par.segPeriod := by
  rw [engineInputs_eq]
  have := decayed_le now s
  have := addTime_le s.par.segPeriod (decayed now s)
  simp only
  split <;> omega

end Sys2Proof.Machine
end

