-- ==== Sys2Proof/Laws/PerInstr.lean ====
section
/-! SUPPORT. Statements made per constructor of Instr: the word of a well-formed operation fits the command port
(30_encoding.md R71: `MS_W + 12` bits). -/

namespace Sys2Proof.Laws.EncodeFits

/-- The word of the operation has at most `msW + 12` bits, for every width. -/
def Statement (i : Instr) : Prop := ∀ msW : Nat, i.wellFormed msW = true → encode msW i < 2 ^ (msW + 12)

/-- A word without operands fits. -/
theorem plain {op : Nat} (h : op < 16) (msW : Nat) : packWord msW op 0 0 < 2 ^ (msW + 12) :=
  packWord_lt h (by omega) (Nat.two_pow_pos msW)

theorem clkInit : Statement .clkInit := fun msW _ => plain (Instr.op_lt _) msW

theorem clkWait : Statement .clkWait := fun msW _ => plain (Instr.op_lt _) msW

theorem clkNow : Statement .clkNow := fun msW _ => plain (Instr.op_lt _) msW

theorem fclkNow : Statement .fclkNow := fun msW _ => plain (Instr.op_lt _) msW

theorem btnUpdate (b : BtnId) (now : Nat) : Statement (.btnUpdate b now) := fun msW h => by
  have hn : now < 2 ^ msW := by simpa [Instr.wellFormed, Instr.time, Instr.countInRange] using h
  have hb := b.code_lt
  exact packWord_lt (Instr.op_lt _) (by omega) hn

theorem engUpdate (now : Nat) : Statement (.engUpdate now) := fun msW h => by
  have hn : now < 2 ^ msW := by simpa [Instr.wellFormed, Instr.time, Instr.countInRange] using h
  exact packWord_lt (Instr.op_lt _) (by omega) hn

theorem engAddtime : Statement .engAddtime := fun msW _ => plain (Instr.op_lt _) msW

theorem engDirective : Statement .engDirective := fun msW _ => plain (Instr.op_lt _) msW

theorem dspUpdate (n : BitVec 4) (kind : BlinkKind) (now : Nat) : Statement (.dspUpdate n kind now) :=
  fun msW h => by
    have hn : now < 2 ^ msW := by simpa [Instr.wellFormed, Instr.time, Instr.countInRange] using h
    have hk := kind.code_lt
    have hc := n.isLt
    exact packWord_lt (Instr.op_lt _) (by omega) hn

theorem solidResync (n : BitVec 4) : Statement (.solidResync n) := fun msW _ => plain (Instr.op_lt _) msW

theorem blinkyUpdate (newIdx : Option (BitVec 3)) (isFast : Bool) (now : Nat) :
    Statement (.blinkyUpdate newIdx isFast now) := fun msW _ => plain (Instr.op_lt _) msW

theorem blinkyToggle (isFast : Bool) : Statement (.blinkyToggle isFast) := fun msW _ => plain (Instr.op_lt _) msW

theorem allUpdate (now : Nat) : Statement (.allUpdate now) := fun msW _ => plain (Instr.op_lt _) msW

end Sys2Proof.Laws.EncodeFits
end

