-- ==== Sys2Proof/Laws/Step.lean ====
section
/-! SUPPORT. What an operation and a step can do, said once: the state after an operation, the cases of a step, and the
principle by which an invariant is kept by every step. -/

namespace Sys2Proof.Machine

open Host

/-- The state after an operation. -/
def after (i : Instr) (s : State) : State :=
  match i with
  | .clkInit => runCommand clkInitRun s
  | .clkWait => runClockCommand true clkWaitRun s
  | .clkNow => runClockCommand (decide (s.par.variant = .coarse)) clkNowRun s
  | .fclkNow => runClockCommand (decide (s.par.variant = .fine)) fclkNowRun s
  | .btnUpdate b now => runCommand (btnUpdateRun b now) s
  | .engUpdate now => runCommand (engUpdateRun now) s
  | .engAddtime => runCommand (fun s => respond .ok 0 (engAddTime s)) s
  | .engDirective => runCommand (fun s => respond .ok s.directive.code s) s
  | .dspUpdate n kind now => runCommand (dspUpdateRun n kind now) s
  | .solidResync n => runSub (fun s => { s with dsp := resync n s.dsp }) s
  | .blinkyUpdate newIdx isFast now => runSub (fun s => { s with dsp := blinky s.par newIdx isFast now s.dsp }) s
  | .blinkyToggle isFast => runSub (fun s => { s with dsp := toggle s.par isFast s.dsp }) s
  | .allUpdate now => runSub (fun s => { s with dsp := allUpdate s.par now s.dsp }) s

/-- Every operation answers a next state. -/
theorem exec_eq (i : Instr) (s : State) : exec i s = .next (after i s) := by cases i <;> rfl

theorem exec_next {i : Instr} {s t : State} : exec i s = .next t ↔ after i s = t := by
  rw [exec_eq]
  exact ⟨fun h => by injection h, fun h => by rw [h]⟩

/-! ### The checks before an operation (30_encoding.md R77) -/

theorem runCommand_ready {s : State} (h : s.fault = false) (run : State → State) : runCommand run s = run s := by
  simp [runCommand, h]

theorem runCommand_faulted {s : State} (h : s.fault = true) (run : State → State) :
    runCommand run s = refuse .fault s := by simp [runCommand, h]

theorem runSub_ready {s : State} (h : s.fault = false) (run : State → State) : runSub run s = run s := by
  simp [runSub, h]

theorem runSub_faulted {s : State} (h : s.fault = true) (run : State → State) : runSub run s = s := by
  simp [runSub, h]

theorem runClockCommand_ready {s : State} (h : s.fault = false) (hv : s.clk.clkValid = true)
    (run : State → State) : runClockCommand true run s = run s := by simp [runClockCommand, h, hv]

/-- A clock command is one of the three refusals, or its operation. -/
theorem runClockCommand_cases (legal : Bool) (run : State → State) (s : State) :
    (∃ st, runClockCommand legal run s = refuse st s) ∨
    (s.fault = false ∧ legal = true ∧ s.clk.clkValid = true ∧ runClockCommand legal run s = run s) := by
  unfold runClockCommand
  cases hf : s.fault
  · cases legal
    · exact .inl ⟨.illegal, by simp⟩
    · cases hv : s.clk.clkValid
      · exact .inl ⟨.noclock, by simp⟩
      · exact .inr ⟨rfl, rfl, rfl, by simp⟩
  · exact .inl ⟨.fault, by simp⟩

/-- What holds of the refusal and of the operation holds of the command. -/
theorem runCommand_keeps {P : State → Prop} {run : State → State} {s : State}
    (hrefuse : P (refuse .fault s)) (hrun : s.fault = false → P (run s)) : P (runCommand run s) := by
  cases hf : s.fault
  · rw [runCommand_ready hf]; exact hrun hf
  · rw [runCommand_faulted hf]; exact hrefuse

theorem runClockCommand_keeps {P : State → Prop} {legal : Bool} {run : State → State} {s : State}
    (hrefuse : ∀ st, P (refuse st s))
    (hrun : s.fault = false → legal = true → s.clk.clkValid = true → P (run s)) : P (runClockCommand legal run s) := by
  rcases runClockCommand_cases legal run s with ⟨st, h⟩ | ⟨h1, h2, h3, h⟩
  · rw [h]; exact hrefuse st
  · rw [h]; exact hrun h1 h2 h3

theorem runSub_keeps {P : State → Prop} {run : State → State} {s : State} (hs : P s)
    (hrun : s.fault = false → P (run s)) : P (runSub run s) := by
  cases hf : s.fault
  · rw [runSub_ready hf]; exact hrun hf
  · rw [runSub_faulted hf]; exact hs

/-! ### The environment's next move -/

/-- Taking the next move changes only the environment's own record. -/
theorem nextEvent_state (s : State) : ∃ env, (nextEvent s).2 = { s with env := env } := by
  unfold nextEvent
  split
  · exact ⟨_, rfl⟩
  · exact ⟨_, rfl⟩

theorem nextEvent_listed {s : State} {e : Event} {es : List Event} (h : s.env.events = e :: es) :
    nextEvent s = (e, { s with env := { s.env with events := es } }) := by
  unfold nextEvent
  rw [h]

/-- The next move does not depend on the pulses of the step before. -/
theorem nextEvent_endPulses (s : State) :
    (nextEvent (endPulses s)).1 = (nextEvent s).1 ∧ (nextEvent (endPulses s)).2 = endPulses (nextEvent s).2 := by
  unfold nextEvent
  rw [endPulses_env]
  cases s.env.events <;> exact ⟨rfl, rfl⟩

/-- A gap moves HWT by some count, and changes nothing else but the record of the draws. -/
theorem hwtGap_eq (s : State) : ∃ (k : Nat) (env : Env),
    hwtGap s = { s with hwt := s.hwt.advance (maxCount s.par) k, env := env } ∧ env.events = s.env.events ∧
    ∀ d ds, s.env.draws = d :: ds → k = d ∧ env = { s.env with draws := ds } := by
  refine ⟨gapCount s, s.env.drawGap, rfl, ?_, fun d ds hd => ?_⟩
  · unfold Env.drawGap
    split <;> rfl
  · simp [gapCount, Env.drawGap, hd]

/-- The double read, said once: HWT moves in two gaps, the flag is cleared between them, and the delta of the three reads is
added to the accumulator (40_clock.md R107). -/
theorem fclkNowRun_eq (s : State) : ∃ (k1 k2 : Nat) (env : Env),
    let h1 := s.hwt.advance (maxCount s.par) k1
    let h2 := { h1 with wrapf := false }.advance (maxCount s.par) k2
    let fticks := s.clk.fticks + fineDelta (maxCount s.par) s.clk.lastRead s.hwt.phase h1.wrapf h2.phase
    fclkNowRun s = { s with
      clk := { s.clk with fticks := fticks, lastRead := h2.phase }, hwt := h2, wrapClr := true, env := env,
      rsp := some ⟨.ok, ticksToMs s.par fticks.toNat % 2 ^ s.par.msW⟩ } ∧
    env.events = s.env.events ∧
    ∀ d e ds, s.env.draws = d :: e :: ds → k1 = d ∧ k2 = e ∧ env = { s.env with draws := ds } := by
  obtain ⟨k1, env1, h1, he1, hd1⟩ := hwtGap_eq s
  obtain ⟨k2, env2, h2, he2, hd2⟩ := hwtGap_eq (readClearWrapFlag (hwtGap s)).2
  have henv : (readClearWrapFlag (hwtGap s)).2.env = env1 := by rw [h1]; rfl
  refine ⟨k1, k2, env2, ?_, by rw [he2, henv, he1], ?_⟩
  · simp only [fclkNowRun, readClearWrapFlag] at *
    rw [h2, h1]
    simp only [sampleCount, respond]
  · intro d e ds h
    obtain ⟨hk1, hb⟩ := hd1 d (e :: ds) h
    obtain ⟨hk2, hc⟩ := hd2 e ds (by rw [henv, hb])
    exact ⟨hk1, hk2, by rw [hc, henv, hb]⟩

/-! ### Between the commands of `TICK` -/

@[simp] theorem between_cfg (i : Interval) (s : State) : (between i s).cfg = s.cfg := rfl
@[simp] theorem between_clk (i : Interval) (s : State) : (between i s).clk = s.clk := rfl
@[simp] theorem between_btn0 (i : Interval) (s : State) : (between i s).btn0 = s.btn0 := rfl
@[simp] theorem between_btn1 (i : Interval) (s : State) : (between i s).btn1 = s.btn1 := rfl
@[simp] theorem between_eng (i : Interval) (s : State) : (between i s).eng = s.eng := rfl
@[simp] theorem between_dsp (i : Interval) (s : State) : (between i s).dsp = s.dsp := rfl
@[simp] theorem between_fault (i : Interval) (s : State) : (between i s).fault = s.fault := rfl
@[simp] theorem between_faultCause (i : Interval) (s : State) : (between i s).faultCause = s.faultCause := rfl
@[simp] theorem between_waiting (i : Interval) (s : State) : (between i s).waiting = s.waiting := rfl
@[simp] theorem between_env (i : Interval) (s : State) : (between i s).env = s.env := rfl
@[simp] theorem between_rsp (i : Interval) (s : State) : (between i s).rsp = none := rfl
@[simp] theorem between_wrapClr (i : Interval) (s : State) : (between i s).wrapClr = false := rfl
@[simp] theorem between_contacts (i : Interval) (s : State) : (between i s).contacts = i.contacts := rfl
@[simp] theorem between_hwt (i : Interval) (s : State) :
    (between i s).hwt = s.hwt.advance (maxCount s.par) i.counts := rfl

/-! ### A step of a wait (40_clock.md R103, R104) -/

/-- A step of a wait leaves it in progress, or ends it with its response or by reset. -/
theorem waitingStep_cases (s : State) : (waitingStep s).waiting = s.waiting ∨
    ((waitingStep s).waiting = false ∧ ((waitingStep s).rsp = some ⟨.ok, 0⟩ ∨ (nextEvent s).1 = .reset)) := by
  obtain ⟨env, he⟩ := nextEvent_state (endPulses s)
  have poll : ∀ u : State, u.waiting = s.waiting → (pollWait u).waiting = s.waiting ∨
      ((pollWait u).waiting = false ∧ ((pollWait u).rsp = some ⟨.ok, 0⟩ ∨ (nextEvent s).1 = .reset)) := by
    intro u hu
    rcases pollWait_cases u with ⟨-, h⟩ | ⟨h1, h2⟩
    · exact .inl (by rw [h, hu])
    · exact .inr ⟨h1, .inl h2⟩
  unfold waitingStep
  simp only [he, (nextEvent_endPulses s).1]
  split
  · exact poll _ rfl
  · exact poll _ (setContact_waiting _ _ _)
  · exact poll _ rfl
  · rename_i h
    exact .inr ⟨rfl, .inr h⟩

/-- Only a poll that finds the flag set has a gap. -/
theorem wrapf_of_mem_pollMoves {s : State} {m : HwtMove} (h : m ∈ pollMoves s) : s.hwt.wrapf = true := by
  unfold pollMoves at h
  split at h
  · rename_i hp
    exact (Bool.and_eq_true_iff.mp hp).1
  · cases h

/-- A wait ends in the step in which HWT moves past `MAX_COUNT`. -/
theorem waitingStep_passes {s : State} (hw : s.waiting = true) (h : s.hwtPasses) :
    (waitingStep s).waiting = false ∧ (waitingStep s).rsp = some ⟨.ok, 0⟩ := by
  obtain ⟨m, hm, hk⟩ := h
  obtain ⟨env, henv⟩ := nextEvent_state (endPulses s)
  have ends : ∀ {u : State}, u.hwt.wrapf = true → (pollWait u).waiting = false ∧ (pollWait u).rsp = some ⟨.ok, 0⟩ :=
    fun hu => pollWait_set hu ▸ waitEnd_answers _
  have poll : ∀ {u : State}, m ∈ pollMoves u → u.hwt.wrapf = true := wrapf_of_mem_pollMoves
  unfold hwtMoves at hm
  unfold waitingStep
  simp only [hw, if_true] at hm
  cases he : (nextEvent (endPulses s)).1 <;> simp only [he, henv] at hm ⊢
  case command w => exact ends (poll hm)
  case contact b v => exact ends (by rw [setContact_hwt]; exact poll hm)
  case advance k =>
    rcases List.mem_cons.mp hm with rfl | hm
    · exact ends (by simp [advance_wrapf]; exact Or.inr hk)
    · exact ends (poll hm)
  case reset => exact nomatch hm

/-- Taking a move just listed leaves the state as it was. -/
theorem nextEvent_listing (e : Event) (s : State) : nextEvent (endPulses (s.listing e)) = (e, endPulses s) := rfl

/-- HWT after a move of the environment. -/
def movedHwt (max : Nat) (h : Hwt) : Event → Hwt
  | .advance k => h.advance max k
  | .command _ => h
  | .contact _ _ => h
  | .reset => h

/-- One move while a wait is in progress that leaves the flag clear: the wait goes on, and only HWT and the contacts
change. -/
theorem waitingStep_goes_on {s : State} {e : Event} (he : e ≠ .reset)
    (hf : (movedHwt (maxCount s.par) s.hwt e).wrapf = false) : ∃ contacts, waitingStep (s.listing e) =
      { endPulses s with hwt := movedHwt (maxCount s.par) s.hwt e, contacts := contacts } := by
  unfold waitingStep
  rw [nextEvent_listing]
  cases e with
  | command w => exact ⟨s.contacts, pollWait_clear hf⟩
  | contact b v =>
    refine ⟨(setContact b v s).contacts, (pollWait_clear (by rw [setContact_hwt]; exact hf)).trans ?_⟩
    cases b <;> rfl
  | advance k => exact ⟨s.contacts, pollWait_clear hf⟩
  | reset => exact absurd rfl he

/-- The counts of the moves, split at the first one: while HWT does not pass `max`, its phase grows by them. -/
theorem movedHwt_total {max : Nat} {h : Hwt} {e : Event} (es : List Event) (hm : max < 2 ^ 24) (hf : h.wrapf = false)
    (hp : h.phase.toNat ≤ max) (hk : ∀ k, e = .advance k → h.phase.toNat + k ≤ max) :
    (movedHwt max h e).wrapf = false ∧ (movedHwt max h e).phase.toNat ≤ max ∧
    (movedHwt max h e).phase.toNat + advanceTotal es = h.phase.toNat + advanceTotal (e :: es) := by
  cases e with
  | advance k =>
    have hle := hk k rfl
    have hphase := advance_phase_of_le hle
    rw [Nat.mod_eq_of_lt (Nat.lt_of_le_of_lt hle hm)] at hphase
    simp only [movedHwt, advanceTotal, hphase, advance_wrapf, hf]
    exact ⟨by simpa using hle, hle, by omega⟩
  | command w => exact ⟨hf, hp, rfl⟩
  | contact b v => exact ⟨hf, hp, rfl⟩
  | reset => exact ⟨hf, hp, rfl⟩

/-- The moves of a wait, said once, where the flag is clear at its start and no reset comes: the wait ends with the poll that
follows the move by which HWT passes `MAX_COUNT`, or it goes on. Up to there only HWT, the contacts and the pulses
change. -/
theorem waitThrough_eq (moves : List Event) {s : State} (hm : maxCount s.par < 2 ^ 24) (hw : s.waiting = true)
    (hr : s.rsp = none) (hf : s.hwt.wrapf = false) (hp : s.hwt.phase.toNat ≤ maxCount s.par)
    (hreset : .reset ∉ moves) :
    ∃ hwt contacts wrapClr,
      (maxCount s.par < s.hwt.phase.toNat + advanceTotal moves → hwt.wrapf = true ∧ waitThrough moves s =
        waitEnd { s with hwt := hwt, contacts := contacts, wrapClr := wrapClr }) ∧
      (s.hwt.phase.toNat + advanceTotal moves ≤ maxCount s.par → waitThrough moves s =
        { s with hwt := hwt, contacts := contacts, wrapClr := wrapClr }) := by
  induction moves generalizing s with
  | nil => exact ⟨s.hwt, s.contacts, s.wrapClr, fun h => absurd h (Nat.not_lt.mpr hp), fun _ => rfl⟩
  | cons e es ih =>
    have hes : .reset ∉ es := fun h => hreset (List.mem_cons_of_mem _ h)
    have he : e ≠ .reset := fun h => hreset (h ▸ List.mem_cons_self)
    have hrsp : endPulses s = { s with wrapClr := false } := by rw [endPulses, ← hr]
    rw [waitThrough, if_pos hw]
    by_cases hk : ∃ k, e = .advance k ∧ maxCount s.par < s.hwt.phase.toNat + k
    · obtain ⟨k, rfl, hk⟩ := hk
      have hset : (s.hwt.advance (maxCount s.par) k).wrapf = true := by simp [advance_wrapf, hk]
      have hend : waitingStep (s.listing (.advance k)) = waitEnd (hwtAdvance k (endPulses s)) := pollWait_set hset
      refine ⟨s.hwt.advance (maxCount s.par) k, s.contacts, false, fun _ => ⟨hset, ?_⟩, fun h => ?_⟩
      · rw [hend, hrsp]
        cases es with
        | nil => rfl
        | cons e' es' => rw [waitThrough, if_neg (by simp [waitEnd_answers])]; rfl
      · simp only [advanceTotal] at h
        omega
    · obtain ⟨hf', hp', htotal⟩ := movedHwt_total es hm hf hp fun k hek => Nat.not_lt.mp fun hlt => hk ⟨k, hek, hlt⟩
      obtain ⟨contacts, hstep⟩ := waitingStep_goes_on he hf'
      rw [hstep, hrsp, ← htotal]
      exact ih (s := { s with hwt := movedHwt (maxCount s.par) s.hwt e, contacts := contacts, wrapClr := false })
        hm hw hr hf' hp' hes

/-! ### The cases of a step -/

/-- The state after a step. -/
def stepped (s : State) : State :=
  if s.waiting then waitingStep s
  else
    let r := nextEvent (endPulses s)
    match r.1 with
    | .command w =>
      match decode s.par.msW w with
      | .ok i => after i r.2
      | .error _ => runCommand (refuse .illegal) r.2
    | .contact b v => setContact b v r.2
    | .advance k => hwtAdvance k r.2
    | .reset => resetBlock r.2

/-- Every step answers a next state, `stepped`. -/
theorem step_eq (s : State) : step s = .next (stepped s) := by
  unfold step stepped readyStep
  by_cases hw : s.waiting = true
  · rw [if_pos hw, if_pos hw]
  · rw [if_neg hw, if_neg hw]
    obtain ⟨env, he⟩ := nextEvent_state (endPulses s)
    generalize nextEvent (endPulses s) = r at he ⊢
    obtain ⟨e, u⟩ := r
    subst he
    cases e with
    | command w =>
      simp only [acceptWord, State.par, endPulses_cfg]
      cases decode s.cfg.params.msW w with
      | ok i => exact exec_eq i _
      | error e => rfl
    | contact b v => rfl
    | advance k => rfl
    | reset => rfl

theorem step_next {s t : State} : step s = .next t ↔ stepped s = t := by
  rw [step_eq]
  exact ⟨fun h => by injection h, fun h => by rw [h]⟩

/-- A step, said once: the environment's record moves and the earlier pulses are over; then the contacts, HWT or reset, or a
poll of a wait in progress, or an accepted word. -/
theorem step_keeps {P : State → Prop}
    (hquiet : ∀ s env, P s → P { endPulses s with env := env })
    (hcontact : ∀ s b v, P s → P (setContact b v s))
    (hadvance : ∀ s k, P s → P (hwtAdvance k s))
    (hreset : ∀ s, P s → P (resetBlock s))
    (hpoll : ∀ s, s.waiting = true → P s → P (pollWait s))
    (hillegal : ∀ s, s.waiting = false → P s → P (runCommand (refuse .illegal) s))
    (hexec : ∀ s i w, s.waiting = false → decode s.par.msW w = .ok i → P s → P (after i s))
    {s t : State} (hs : P s) (h : step s = .next t) : P t := by
  rw [step_next] at h
  subst h
  obtain ⟨env, he⟩ := nextEvent_state (endPulses s)
  have hq : P { endPulses s with env := env } := hquiet s env hs
  unfold stepped
  split
  · rename_i hw
    unfold waitingStep
    simp only [he]
    split
    · exact hpoll _ hw hq
    · exact hpoll _ (by simpa using hw) (hcontact _ _ _ hq)
    · exact hpoll _ hw (hadvance _ _ hq)
    · exact hreset _ hq
  · rename_i hw
    have hw' : s.waiting = false := by simpa using hw
    simp only [he]
    split
    · split
      · rename_i hd
        exact hexec _ _ _ hw' hd hq
      · exact hillegal _ hw' hq
    · exact hcontact _ _ _ hq
    · exact hadvance _ _ hq
    · exact hreset _ hq

end Sys2Proof.Machine
end

