-- ==== Sys2Proof/Tests/Slice0.lean ====
section
/-! SUPPORT. The model's own tests: what the checks refuse, words written out from 30_encoding.md, vectors of
95_test_vectors.md, and for every obligation with hypotheses a state and operands that meet them. -/

namespace Sys2Proof.Tests

open Host Sys2Proof.Machine

/-! ### Helpers -/

/-- The outcome is a next state of which `P` holds. -/
def ends (o : Outcome State Fault Refusal) (P : State → Bool) : Bool :=
  match o with
  | .next t => P t
  | .fault _ => false
  | .refused _ => false

/-- X1 with the coarse clock running. -/
def coarse (msAcc : Nat) (phase : Cnt) (wrapf : Bool) (draws : List Nat) : State :=
  { State.reset with
    clk := { clkValid := true, msAcc := msAcc, fticks := 0, lastRead := 0 }, hwt := ⟨phase, wrapf⟩,
    env := { events := [], draws := draws, drawn := 0 } }

/-- X1 with the fine clock running. -/
def fine (fticks : Ticks) (lastRead phase : Cnt) (wrapf : Bool) (draws : List Nat) : State :=
  { State.resetWith Config.x1Fine with
    clk := { clkValid := true, msAcc := 0, fticks := fticks, lastRead := lastRead }, hwt := ⟨phase, wrapf⟩,
    env := { events := [], draws := draws, drawn := 0 } }

/-- X1 with button 0 in a given state and its contact at a given value. -/
def button (B : Btn) (pressed : Bool) : State :=
  { State.reset with btn0 := B, contacts := { pressed0 := pressed, pressed1 := false } }

def idle (level : Bool) : Btn := { level := level, debValid := false, debUntil := 0 }

def debouncing (level : Bool) (deadline : Nat) : Btn := { level := level, debValid := true, debUntil := deadline }

/-- X1 with the engine in a given state. -/
def engine (running : Bool) (remaining lastUpdate : Nat) : State :=
  { State.reset with eng := { running := running, remaining := remaining, lastUpdate := lastUpdate } }

/-- X1 with the display in a given state. -/
def shown (d : Dsp) : State := { State.reset with dsp := d }

/-- A display that blinks LED `i` above `i` solid ones. -/
def blinking (led : Ring) (n : BitVec 4) (i : BitVec 3) (on : Bool) (next : Nat) : Dsp :=
  { Dsp.reset with led := led, numOn := n, blValid := true, blIdx := i, blOn := on, blNext := next }

/-- A display in `All` mode. -/
def flashing (led : Ring) (n : BitVec 4) (on : Bool) (next : Nat) : Dsp :=
  { Dsp.reset with led := led, numOn := n, wasAll := true, allOn := on, allNext := next }

/-- The state with one environment move listed. -/
def withMove (e : Event) (s : State) : State := { s with env := { s.env with events := [e] } }

theorem fine_maxCount (fticks : Ticks) (lastRead phase : Cnt) (wrapf : Bool) (draws : List Nat) :
    maxCount (fine fticks lastRead phase wrapf draws).par = 8000 :=
  (by decide : maxCount (fine 0 0 0 false []).par = 8000)

/-- The run from a state in which the environment lists one move before each step. -/
def runWith (move : Event) (s : State) : Nat → State
  | 0 => withMove move s
  | n + 1 => withMove move (stepped (runWith move s n))

theorem runWith_isRun (move : Event) (s : State) : IsRun (runWith move s) := fun n =>
  ⟨_, _, step_eq (runWith move s n), rfl⟩

theorem runWith_nextEvent (move : Event) (s : State) (n : Nat) :
    (nextEvent (endPulses (runWith move s n))).1 = move := by cases n <;> rfl

/-- While HWT only advances, the configuration is that of the first state. -/
theorem runWith_advance_cfg (k : Nat) (s : State) (n : Nat) : (runWith (.advance k) s n).cfg = s.cfg := by
  induction n with
  | zero => rfl
  | succ n ih =>
    refine Eq.trans ?_ ih
    show (stepped (runWith (.advance k) s n)).cfg = _
    obtain ⟨env, he⟩ := nextEvent_state (endPulses (runWith (.advance k) s n))
    unfold stepped waitingStep
    split <;> simp [runWith_nextEvent, he]

/-- X1 with no debounce windows. -/
def noWindow : Config := ⟨{ Params.x1 with debounce0 := 0, debounce1 := 0 }, by decide⟩

/-- X1 with a given oscillator and tick period. -/
def clockConfig (fOsc tick : Nat) (h : ({ Params.x1 with fOsc := fOsc, tickPeriod := tick }).check = true) : State :=
  State.resetWith ⟨{ Params.x1 with fOsc := fOsc, tickPeriod := tick }, h⟩

/-! ### The checks refuse (00_scope.md R6, 30_encoding.md R71, 43_display.md R163) -/

theorem test_wellFormed_widest_now : (Instr.engUpdate (2 ^ 64 - 1)).wellFormed 64 = true := by decide

theorem test_wellFormed_refuses_wide_now :
    (Instr.engUpdate (2 ^ 64)).wellFormed 64 = false ∧ (Instr.btnUpdate .b0 (2 ^ 64)).wellFormed 64 = false ∧
    (Instr.dspUpdate 0 .none (2 ^ 64)).wellFormed 64 = false ∧
    (Instr.blinkyUpdate none false (2 ^ 64)).wellFormed 64 = false ∧
    (Instr.allUpdate (2 ^ 64)).wellFormed 64 = false := by decide

theorem test_wellFormed_refuses_count_nine :
    (Instr.solidResync 8).wellFormed 64 = true ∧ (Instr.solidResync 9).wellFormed 64 = false := by decide

theorem test_config_accepts_x1 : Params.x1.check = true := by decide

theorem test_config_refuses_straps :
    ({ Params.x1 with tickPeriod := 2 ^ 64 }).check = false ∧ ({ Params.x1 with fOsc := 0 }).check = false ∧
    ({ Params.x1 with fOsc := 2 ^ 32 }).check = false := by decide

theorem test_config_refuses_delays :
    ({ Params.x1 with debounce0 := 2 ^ 64 }).check = false ∧
    ({ Params.x1 with debounce1 := 2 ^ 64 }).check = false := by decide

theorem test_config_refuses_segments :
    ({ Params.x1 with segPeriod := 0 }).check = false ∧
    ({ Params.x1 with segPeriod := 2 ^ 61 }).check = false := by decide

theorem test_config_refuses_durations :
    ({ Params.x1 with tFastOff := 150 }).check = false ∧ ({ Params.x1 with tSlowOff := 600 }).check = false ∧
    ({ Params.x1 with tFastOn := 2 ^ 64 }).check = false ∧ ({ Params.x1 with tSlowOn := 2 ^ 64 }).check = false ∧
    ({ Params.x1 with tAll := 2 ^ 64 }).check = false := by decide

/-! ### Words written out from the encoding (30_encoding.md R71, R72, R76, R82; 95_test_vectors.md 2.2, 2.6, 2.7) -/

theorem test_decode_clkInit : decode 64 0x0000000000000000000 = .ok .clkInit := by decide

theorem test_decode_clkWait : decode 64 0x1000000000000000000 = .ok .clkWait := by decide

theorem test_decode_clkNow : decode 64 0x2000000000000000000 = .ok .clkNow := by decide

theorem test_decode_fclkNow : decode 64 0x3000000000000000000 = .ok .fclkNow := by decide

theorem test_decode_btnUpdate :
    decode 64 0x4000000000000000064 = .ok (.btnUpdate .b0 100) ∧
    decode 64 0x4010000000000000014 = .ok (.btnUpdate .b1 20) := by decide

theorem test_decode_engUpdate : decode 64 0x50000000000000003E8 = .ok (.engUpdate 1000) := by decide

theorem test_decode_engAddtime : decode 64 0x6000000000000000000 = .ok .engAddtime := by decide

theorem test_decode_engDirective : decode 64 0x7000000000000000000 = .ok .engDirective := by decide

theorem test_decode_dspUpdate :
    decode 64 0x80C0000000000000000 = .ok (.dspUpdate 3 .none 0) ∧
    decode 64 0x80D0000000000000406 = .ok (.dspUpdate 3 .fast 1030) ∧
    decode 64 0x80E0000000000000100 = .ok (.dspUpdate 3 .slow 256) ∧
    decode 64 0x83F0000000000000000 = .ok (.dspUpdate 15 .all 0) := by decide

/-- The four rows of format I are refused by name (R79). -/
theorem test_decode_internal :
    decode 64 0x9000000000000000000 = .error .internalSolidResync ∧
    decode 64 0xA000000000000000000 = .error .internalBlinkyUpdate ∧
    decode 64 0xB000000000000000000 = .error .internalBlinkyToggle ∧
    decode 64 0xC000000000000000000 = .error .internalAllUpdate := by decide

theorem test_decode_reserved :
    decode 64 0xD000000000000000000 = .error .reservedOp ∧ decode 64 0xE000000000000000000 = .error .reservedOp ∧
    decode 64 0xF000000000000000000 = .error .reservedOp := by decide

theorem test_decode_mustBeZero :
    decode 64 0x5400000000000000001 = .error .nonzeroZ ∧ decode 64 0x4400000000000000005 = .error .nonzeroZ ∧
    decode 64 0x5010000000000000001 = .error .nonzeroA ∧ decode 64 0x4020000000000000005 = .error .nonzeroA ∧
    decode 64 0x6000000000000000001 = .error .nonzeroT := by decide

/-- A narrower block has shorter words: `MS_W` = 8, `ENG.UPDATE now=200` is `{5, 00, C8}` (R71). -/
theorem test_decode_narrow : decode 8 0x500C8 = .ok (.engUpdate 200) := by decide

/-- The first word after reset is run by the very next step. -/
theorem test_step_runs_first_word :
    ends (step (State.reset.withFetchWord 80 0x0000000000000000000)) (fun t => t.rsp == some ⟨.ok, 1⟩) = true ∧
    ends (step (State.reset.withFetchWord 80 0x80C0000000000000000)) (fun t => t.dsp.led == 0b00000111) = true ∧
    ends (step (State.reset.withFetchWord 80 0x9000000000000000000)) (fun t => t.rsp == some ⟨.illegal, 0⟩) = true := by
  decide

theorem test_text :
    (Instr.dspUpdate 3 .slow 256).text = "DSP.UPDATE n=3 kind=Slow now=256" ∧
    (Instr.btnUpdate .b0 5).text = "BTN.UPDATE b=0 now=5" := by decide

/-! ### Vectors of 95_test_vectors.md -/

/-- 30_encoding.md R74: the codes of `CLOCK_VARIANT`; 10_state.md R42: `cnt_i` counts down, and `reload_o` shows what
`CLK.INIT` has programmed. -/
theorem test_variant_codes_and_counter_ports :
    Variant.coarse.code = 0 ∧ Variant.fine.code = 1 ∧ (fine 0 0 7990 false []).cntI = 10 ∧
    (fine 0 0 7990 true []).wrapfI = true ∧ State.reset.reloadO = none ∧
    ends (exec .clkInit State.reset) (fun t => t.reloadO == some 80000) = true := by decide

/-- 2.1 I: both bounds of the reload count are included. -/
theorem test_clkInit_bounds :
    ends (exec .clkInit (clockConfig 1000 1 (by decide))) (fun t => t.rsp == some ⟨.ok, 1⟩) = true ∧
    ends (exec .clkInit (clockConfig 999 1 (by decide))) (fun t => t.rsp == some ⟨.ok, 0⟩) = true ∧
    ends (exec .clkInit (clockConfig 16777215 1000 (by decide))) (fun t => t.rsp == some ⟨.ok, 1⟩) = true ∧
    ends (exec .clkInit (clockConfig 16777216 1000 (by decide))) (fun t => t.rsp == some ⟨.ok, 0⟩) = true := by decide

/-- 2.1 C, last row: `ms_acc` wraps, and the flag is cleared. -/
theorem test_clkWait_coarse_wraps :
    ends (exec .clkWait (coarse (2 ^ 64 - 5) 0 true [0])) (fun t => t.clk.msAcc == 5 && !t.hwt.wrapf) = true := by
  decide

/-- 40_clock.md R104: phase 7990 of 8000, the wait ends after 11 counts, and the flag stays set. -/
theorem test_clkWait_fine_blocks :
    ends (step { fine 7 0 7990 false [] with waiting := true, env := ⟨[.advance 10], [], 0⟩ }) (fun t => t.waiting) = true ∧
    ends (step { fine 7 0 7990 false [] with waiting := true, env := ⟨[.advance 11], [], 0⟩ })
      (fun t => !t.waiting && t.rsp == some ⟨.ok, 0⟩ && t.hwt.wrapf && t.clk.fticks == 7) = true := by decide

/-- 40_clock.md R105. -/
theorem test_clkNow : ends (exec .clkNow (coarse 30 0 false [])) (fun t => t.rsp == some ⟨.ok, 30⟩) = true := by decide

/-- 2.1 F row 5: a wrap between the flag read and the second sample, with the flag left set. -/
theorem test_fclkNow_wrap :
    ends (exec .fclkNow (fine 8099 99 7990 false [0, 20]))
      (fun t => t.clk.fticks == 16009 && t.clk.lastRead == 9 && t.hwt.wrapf && t.rsp == some ⟨.ok, 2⟩) = true := by decide

/-- 2.1 F row 10: without P-FINE-1 a whole cycle is lost. -/
theorem test_fclkNow_lost :
    ends (exec .fclkNow (fine 32509 509 509 false [0, 8101]))
      (fun t => t.clk.fticks == 32609 && t.clk.lastRead == 609 && t.hwt.wrapf && t.rsp == some ⟨.ok, 4⟩) = true := by decide

/-- B1 row 4: the deadline itself ends the window. -/
theorem test_btnUpdate_deadline :
    ends (exec (.btnUpdate .b0 120) (button (debouncing true 120) false))
      (fun t => t.rsp == some ⟨.ok, 1⟩ && t.btn0 == debouncing false 140) = true := by decide

/-- B3: the stored deadline wraps. -/
theorem test_btnUpdate_wraps :
    ends (exec (.btnUpdate .b0 0xFFFFFFFFFFFFFFF6) (button (idle false) true))
      (fun t => t.rsp == some ⟨.ok, 3⟩ && t.btn0 == debouncing true 10) = true := by decide

/-- E7: both edges in one update. -/
theorem test_engUpdate_both_edges :
    ends (exec (.engUpdate 0) { State.reset with contacts := ⟨true, true⟩ })
      (fun t => t.eng == ⟨true, 1000, 0⟩ && t.btn0 == debouncing true 20 && t.btn1 == debouncing true 20 &&
        t.dsp == blinking 0b00000001 0 0 false 400) = true := by decide

/-- E4: a `now` that went back decays nothing, and `last_update` moves back. -/
theorem test_engUpdate_stale :
    ends (exec (.engUpdate 400) (engine true 2500 500)) (fun t => t.eng == ⟨true, 2500, 400⟩) = true := by decide

/-- 2.4: clamp and wrap-around. -/
theorem test_engAddtime :
    ends (exec .engAddtime (engine false 7001 0)) (fun t => t.eng.remaining == 8000) = true ∧
    ends (exec .engAddtime (engine false 8000 0)) (fun t => t.eng.remaining == 1000) = true := by decide

/-- 2.5: the bound of the fast window, included. -/
theorem test_engDirective_window :
    ends (exec .engDirective (engine true 7333 0)) (fun t => t.rsp == some ⟨.ok, 0x1D⟩) = true ∧
    ends (exec .engDirective (engine true 7334 0)) (fun t => t.rsp == some ⟨.ok, 0x1E⟩) = true := by decide

/-- 2.5: paused, and expired. -/
theorem test_engDirective_ends :
    ends (exec .engDirective (engine false 8000 0)) (fun t => t.rsp == some ⟨.ok, 0x20⟩) = true ∧
    ends (exec .engDirective (engine true 0 0)) (fun t => t.rsp == some ⟨.ok, 0x03⟩) = true := by decide

/-- V1 row 11: the blinking LED moves, and does not toggle in that frame. -/
theorem test_dspUpdate_move :
    ends (exec (.dspUpdate 2 .slow 1600) (shown (blinking 0b00000111 3 3 true 1570)))
      (fun t => t.dsp == blinking 0b00000011 2 2 false 1600) = true := by decide

/-- V3: `SOLID_RANGE` comes before the `All` test, and nothing but the fault record is written. -/
theorem test_dspUpdate_fault :
    ends (exec (.dspUpdate 15 .all 0) State.reset)
      (fun t => t == { State.reset with fault := true, faultCause := 1, rsp := some ⟨.fault, 0⟩ } &&
        t.statusWord == 0b0110) = true := by decide

/-- 43_display.md R163, example. -/
theorem test_solidResync :
    ends (exec (.solidResync 5) (shown (flashing 0xF0 0 true 9)))
      (fun t => t.dsp == { flashing 0b00011111 5 true 9 with led := 0b00011111 }) = true := by decide

/-- 43_display.md R165, example. -/
theorem test_blinkyUpdate_start :
    ends (exec (.blinkyUpdate (some 2) false 1000) State.reset)
      (fun t => t.dsp == blinking 0b00000100 0 2 false 1400) = true := by decide

/-- 43_display.md R168, example. -/
theorem test_blinkyToggle :
    ends (exec (.blinkyToggle false) (shown (blinking 0b00000100 2 2 false 1400)))
      (fun t => t.dsp == blinking 0 2 2 true 2000) = true := by decide

/-- 43_display.md R171, example: entry, and the toggle at the deadline. -/
theorem test_allUpdate :
    ends (exec (.allUpdate 7000) (shown { Dsp.reset with led := 1 }))
      (fun t => t.dsp == flashing 0xFF 0 true 7500) = true ∧
    ends (exec (.allUpdate 7500) (shown (flashing 0xFF 0 true 7500)))
      (fun t => t.dsp == flashing 0x00 0 false 8000) = true := by decide

/-! ### Witnesses: for each obligation with hypotheses, a state and operands that meet them -/

theorem witness_SampleWordsDecode : State.reset.fault = false ∧ State.reset.par.msW = 64 := by decide

theorem witness_EncodedCommandDecodesBack :
    (Instr.dspUpdate 15 .all (2 ^ 64 - 1)).wellFormed 64 = true ∧
    (Instr.dspUpdate 15 .all (2 ^ 64 - 1)).hostCommand = true := by decide

theorem witness_DecodedWordIsTheCommandsWord :
    decode 64 0x83FFFFFFFFFFFFFFFFF = .ok (.dspUpdate 15 .all (2 ^ 64 - 1)) := by decide

/-- One word for each clause, all of the port's width. -/
theorem witness_IllegalWordsAreExactlyThese :
    0xFFFFFFFFFFFFFFFFFFF < 2 ^ (64 + 12) ∧ fieldOp 64 0x9000000000000000000 = 9 ∧
    fieldZ 64 0x5400000000000000001 = 1 ∧
    (fieldOp 64 0x3010000000000000000 = 3 ∧ fieldA 64 0x3010000000000000000 = 1) ∧
    (fieldOp 64 0x6000000000000000001 = 6 ∧ fieldT 64 0x6000000000000000001 = 1) ∧
    (fieldOp 64 0x5010000000000000001 = 5 ∧ fieldA 64 0x5010000000000000001 = 1) ∧
    (fieldOp 64 0x4020000000000000005 = 4 ∧ fieldA 64 0x4020000000000000005 = 2) := by decide

theorem witness_IllegalWordIsRefusedUnchanged :
    let s := withMove (.command 0x9000000000000000000) State.reset
    s.waiting = false ∧ s.fault = false ∧ s.env.events = .command 0x9000000000000000000 :: [] ∧
    decode s.par.msW 0x9000000000000000000 = .error .internalSolidResync := by decide

theorem witness_StepRunsTheDecodedOperation :
    let s := withMove (.command 0x50000000000000003E8) State.reset
    s.waiting = false ∧ s.env.events = .command 0x50000000000000003E8 :: [] ∧
    decode s.par.msW 0x50000000000000003E8 = .ok (.engUpdate 1000) := by decide

theorem witness_FaultStateRefusesEveryWord :
    let s := withMove (.command 0) { State.reset with fault := true, faultCause := 1 }
    s.waiting = false ∧ s.fault = true ∧ s.env.events = .command 0 :: [] := by decide

theorem witness_FaultedOperationChangesNothing : { State.reset with fault := true, faultCause := 2 }.fault = true := by
  decide

/-- Both variants. -/
theorem witness_OtherVariantsNowIsIllegal :
    (State.reset.fault = false ∧ State.reset.par.variant = .coarse) ∧
    (fine 0 0 0 false []).fault = false ∧ (fine 0 0 0 false []).par.variant = .fine := by decide

theorem witness_ClockCommandsNeedAClock :
    (State.reset.fault = false ∧ State.reset.clk.clkValid = false ∧ State.reset.par.variant = .coarse) ∧
    (State.resetWith Config.x1Fine).fault = false ∧ (State.resetWith Config.x1Fine).clk.clkValid = false ∧
    (State.resetWith Config.x1Fine).par.variant = .fine := by decide

/-- The reload counts 1, 16777215, 0 and 16777216. -/
theorem witness_ClkInitProducesAClockInRange :
    (let s := clockConfig 1000 1 (by decide)
     s.fault = false ∧ s.par.fOsc * s.par.tickPeriod / 1000 = 1) ∧
    (let s := clockConfig 16777215 1000 (by decide)
     s.fault = false ∧ s.par.fOsc * s.par.tickPeriod / 1000 = 16777215) ∧
    (let s := clockConfig 999 1 (by decide)
     s.fault = false ∧ s.par.fOsc * s.par.tickPeriod / 1000 < 1) ∧
    (let s := clockConfig 16777216 1000 (by decide)
     s.fault = false ∧ 16777215 < s.par.fOsc * s.par.tickPeriod / 1000) := by decide

theorem witness_CoarseWaitAddsOnePeriod :
    (let s := coarse (2 ^ 64 - 5) 0 true [7]
     s.fault = false ∧ s.par.variant = .coarse ∧ s.clk.clkValid = true ∧ s.hwt.wrapf = true ∧
     s.env.draws = 7 :: []) ∧
    (let s := coarse 40 80000 false []
     s.fault = false ∧ s.par.variant = .coarse ∧ s.clk.clkValid = true ∧ s.hwt.wrapf = false) := by decide

theorem witness_FineWaitOnlyPeeks :
    (let s := fine 7 0 7990 true []
     s.fault = false ∧ s.par.variant = .fine ∧ s.clk.clkValid = true ∧ s.hwt.wrapf = true) ∧
    (let s := fine 7 0 7990 false []
     s.fault = false ∧ s.par.variant = .fine ∧ s.clk.clkValid = true ∧ s.hwt.wrapf = false) := by decide

/-- The last count before the wrap, and the wrap itself, in both variants. -/
theorem witness_WaitEndsWhenTheCounterWraps :
    (let s := withMove (.advance 10) { fine 7 0 7990 false [] with waiting := true }
     s.waiting = true ∧ s.hwt.wrapf = false ∧ s.env.events = .advance 10 :: [] ∧
     s.hwt.phase.toNat + 10 = maxCount s.par ∧ s.par.variant = .fine) ∧
    (let s := withMove (.advance 11) { fine 7 0 7990 false [] with waiting := true }
     s.waiting = true ∧ s.hwt.wrapf = false ∧ s.env.events = .advance 11 :: [] ∧
     s.hwt.phase.toNat + 11 = maxCount s.par + 1) ∧
    (let s := withMove (.advance 1) { coarse 0 80000 false [] with waiting := true }
     s.waiting = true ∧ s.hwt.wrapf = false ∧ s.env.events = .advance 1 :: [] ∧
     s.hwt.phase.toNat + 1 = maxCount s.par + 1 ∧ s.par.variant = .coarse) ∧
    (let s := withMove (.contact .b1 true) { coarse 0 80000 false [] with waiting := true }
     s.waiting = true ∧ s.hwt.wrapf = false ∧ s.env.events = .contact .b1 true :: []) := by decide

/-- A fair run with a wait in its first state: HWT advances by a full cycle in every step. -/
theorem witness_WaitEndsWhenTheCounterWraps_fair :
    let r := runWith (.advance 8001) { fine 7 0 7990 false [] with waiting := true }
    FairRun r ∧ HwtServed r 0 ∧ (r 0).waiting = true := by
  intro r
  have passes : ∀ n, (r n).hwtPasses := fun n => by
    have hp : maxCount (r n).par = 8000 := by
      rw [State.par, runWith_advance_cfg]
      exact fine_maxCount 7 0 7990 false []
    refine ⟨((r n).hwt, 8001), by simp [r, hwtMoves, runWith_nextEvent], ?_⟩
    rw [HwtMove.passes, hp]
    exact Nat.lt_of_lt_of_le (by decide : 8000 < 8001) (Nat.le_add_left _ _)
  exact ⟨⟨runWith_isRun _ _, fun n => ⟨n, Nat.le_refl n, passes n⟩⟩, ⟨0, Nat.le_refl 0, passes 0⟩, rfl⟩

theorem witness_WaitIgnoresPresentedWords :
    let s := withMove (.command 0) { coarse 0 80000 false [] with waiting := true }
    s.waiting = true ∧ s.hwt.wrapf = false ∧ s.env.events = .command 0 :: [] := by decide

theorem witness_CoarseNowReturnsTheAccumulator :
    let s := coarse (2 ^ 64 - 1) 0 false []
    s.fault = false ∧ s.par.variant = .coarse ∧ s.clk.clkValid = true ∧ RangeInv s :=
  ⟨by decide, by decide, by decide, by decide, by decide, by decide, by decide, by decide, by decide, by decide,
    fun r h => by cases h⟩

theorem witness_FineNowDoubleRead :
    let s := fine 8099 99 7990 false [0, 20]
    s.fault = false ∧ s.par.variant = .fine ∧ s.clk.clkValid = true ∧ s.env.draws = 0 :: 20 :: [] := by decide

/-- The clock invariant holds in the states of table 2.1 F. -/
theorem fine_inv {fticks : Ticks} {lastRead phase : Cnt} {wrapf : Bool} {draws : List Nat}
    (hl : lastRead.toNat ≤ 8000) (hp : phase.toNat ≤ 8000) (hf : wrapf = false → lastRead.toNat ≤ phase.toNat) :
    ClockInv (fine fticks lastRead phase wrapf draws) where
  coarse_fticks h := by cases h
  coarse_lastRead h := by cases h
  fine_msAcc _ := rfl
  reload_ok _ := (by decide : reloadOk (fine 0 0 0 false []).par = true)
  lastRead_le _ := by rw [fine_maxCount]; exact hl
  phase_le _ := by rw [fine_maxCount]; exact hp
  fine_flag _ _ h := hf h

/-- Row F 5: the largest samples on both sides of a wrap. -/
theorem witness_FineDeltaIsNeverNegative :
    let s := fine 8099 99 7990 false [0, 20]
    s.fault = false ∧ s.par.variant = .fine ∧ s.clk.clkValid = true ∧ ClockInv s :=
  ⟨by decide, by decide, by decide, fine_inv (by decide) (by decide) (by decide)⟩

/-- The second sample is `MAX_COUNT`. -/
theorem witness_FineDeltaIsExactWithoutAWrap :
    let s := fine 7910 7910 7990 false [4, 6]
    s.fault = false ∧ s.par.variant = .fine ∧ s.clk.clkValid = true ∧ ClockInv s ∧
    s.env.draws = 4 :: 6 :: [] ∧ s.hwt.wrapf = false ∧ s.hwt.phase.toNat + 4 + 6 ≤ maxCount s.par :=
  ⟨by decide, by decide, by decide, fine_inv (by decide) (by decide) (by decide), by decide, by decide, by decide⟩

/-- One count past `MAX_COUNT`, reached between the samples (after row F 4) and before the first one; and as many counts as
one wrap allows. -/
theorem witness_FineDeltaIsOneShortPerWrap :
    (let s := fine 7910 7910 7990 false [4, 7]
     s.fault = false ∧ s.par.variant = .fine ∧ s.clk.clkValid = true ∧ ClockInv s ∧
     s.env.draws = 4 :: 7 :: [] ∧ s.hwt.wrapf = false ∧ 4 + 7 ≤ maxCount s.par ∧
     maxCount s.par < s.hwt.phase.toNat + 0 + 4 + 7 ∧ s.hwt.phase.toNat + 0 + 4 + 7 ≤ 2 * maxCount s.par + 1) ∧
    (let s := fine 7910 7910 7990 false [4, 7]
     s.hwt.phase.toNat + 8000 + 4 + 7 = 2 * maxCount s.par + 1) := by
  refine ⟨⟨by decide, by decide, by decide, fine_inv (by decide) (by decide) (by decide), ?_⟩, ?_⟩ <;> decide

/-- Rows F 3 and F 4: two reads with the wrap before the second one's first sample; and a `CLK.INIT` before the read. -/
theorem witness_FineDeltaIsOneShortPerWrap_twoCommands :
    (let s := fine 4000 4000 7900 false [0, 10, 0, 0]
     let t := fclkNowRun s
     s.fault = false ∧ s.par.variant = .fine ∧ ClockInv s ∧ exec .fclkNow s = .next t ∧ t.clk.clkValid = true ∧
     t.hwt.wrapf = false ∧ t.env.draws = 0 :: 0 :: [] ∧ maxCount s.par < t.clk.lastRead.toNat + (190 + 0 + 0) ∧
     t.clk.lastRead.toNat + (190 + 0 + 0) ≤ 2 * maxCount s.par + 1) ∧
    (let s := fine 4000 4000 7900 false [3, 4]
     let t := clkInitRun s
     ClockInv s ∧ exec .clkInit s = .next t ∧ t.clk.clkValid = true ∧ t.hwt.wrapf = false ∧
     t.env.draws = 3 :: 4 :: [] ∧ maxCount s.par < t.clk.lastRead.toNat + (8001 + 3 + 4) ∧
     t.clk.lastRead.toNat + (8001 + 3 + 4) ≤ 2 * maxCount s.par + 1) := by
  refine ⟨⟨rfl, rfl, fine_inv (by decide) (by decide) (by decide), rfl, ?_⟩,
    ⟨fine_inv (by decide) (by decide) (by decide), rfl, ?_⟩⟩ <;> decide

/-- Row F 4: the delta of the second read is 189. -/
theorem test_fclkNow_wrap_before_the_first_sample :
    ends (exec .fclkNow (hwtAdvance 190 (fine 7910 7910 7910 false [0, 0])))
      (fun t => t.clk.fticks == 8099 && t.clk.lastRead == 99 && t.wrapClr) = true := by decide

/-- Rows F 6 and F 7. -/
theorem witness_FineNowNeverDecreases :
    let s := fine 16009 9 109 true [0, 0, 0, 0]
    let t := fclkNowRun s
    let u := fclkNowRun (hwtAdvance 100 t)
    s.fault = false ∧ s.par.variant = .fine ∧ s.clk.clkValid = true ∧ ClockInv s ∧
    exec .fclkNow s = .next t ∧ t.answers 3 ∧ exec .fclkNow (hwtAdvance 100 t) = .next u ∧ u.answers 3 ∧
    t.clk.fticks.toNat + 2 * maxCount s.par < 2 ^ 64 ∧
    ticksToMs s.par (t.clk.fticks.toNat + 2 * maxCount s.par) < 2 ^ s.par.msW :=
  ⟨by decide, by decide, by decide, fine_inv (by decide) (by decide) (by decide), rfl, rfl, rfl, rfl, by decide,
    by decide⟩

/-- A step that sets the flag, for the second clause. -/
theorem witness_CounterAdvancesCompose :
    8000 < 2 ^ 24 ∧ (Hwt.mk 8000 false).phase.toNat ≤ 8000 ∧
    (let s := withMove (.advance 11) (fine 7 0 7990 false [])
     step s = .next (hwtAdvance 11 { s with env := ⟨[], [], 0⟩ }) ∧ s.hwt.wrapf = false ∧
     (hwtAdvance 11 s).hwt.wrapf = true) := ⟨by decide, by decide, rfl, rfl, by decide⟩

/-- The run of `witness_WaitEndsWhenTheCounterWraps_fair`, for the third clause. -/
theorem witness_CounterAdvancesCompose_fair :
    FairRun (runWith (.advance 8001) { fine 7 0 7990 false [] with waiting := true }) :=
  witness_WaitEndsWhenTheCounterWraps_fair.1

/-- A wrap in a gap: the flag is set in the second gap of an `FCLK.NOW` (row F 5). -/
theorem test_hwtMoves_in_a_gap :
    let s := withMove (.command 0x3000000000000000000) (fine 8099 99 7990 false [0, 20])
    hwtMoves s = [(⟨7990, false⟩, 0), (⟨7990, false⟩, 20)] ∧
    ends (step s) (fun t => t.hwt == ⟨9, true⟩) = true := by decide

theorem button_inv (B : Btn) (p : Bool) : ButtonInv (button B p) := fun b h => by cases b <;> cases h

/-- The rows of R124, in order: the states before, with the samples; the two rows with `D = 0`. -/
theorem witness_ButtonTransitionTable :
    ((button (idle false) false).fault = false ∧ ButtonInv (button (idle false) false)) ∧
    ((button (idle false) false).btn .b0).IsIdle false ∧ samplePressed .b0 (button (idle false) false) = false ∧
    ((button (idle false) true).btn .b0).IsIdle false ∧ samplePressed .b0 (button (idle false) true) = true ∧
    0 < debounceDelay (button (idle false) true).par .b0 ∧
    ((button (idle true) true).btn .b0).IsIdle true ∧ samplePressed .b0 (button (idle true) true) = true ∧
    ((button (idle true) false).btn .b0).IsIdle true ∧ samplePressed .b0 (button (idle true) false) = false ∧
    ((button (debouncing false 140) true).btn .b0).IsDebouncing false 140 ∧ 139 < 140 ∧
    ((button (debouncing true 120) false).btn .b0).IsDebouncing true 120 ∧ 119 < 120 ∧
    ((button (debouncing false 140) false).btn .b0).IsDebouncing false 140 ∧ 140 ≤ 140 ∧
    ((button (debouncing true 120) true).btn .b0).IsDebouncing true 120 ∧ 120 ≤ 120 ∧
    samplePressed .b0 (button (debouncing false 140) false) = false ∧
    samplePressed .b0 (button (debouncing false 140) true) = true ∧
    samplePressed .b0 (button (debouncing true 120) false) = false ∧
    samplePressed .b0 (button (debouncing true 120) true) = true :=
  ⟨⟨rfl, button_inv _ _⟩, ⟨rfl, rfl⟩, rfl, ⟨rfl, rfl⟩, rfl, by decide, ⟨rfl, rfl⟩, rfl, ⟨rfl, rfl⟩, rfl,
    ⟨rfl, rfl, rfl⟩, by decide, ⟨rfl, rfl, rfl⟩, by decide, ⟨rfl, rfl, rfl⟩, by decide, ⟨rfl, rfl, rfl⟩, by decide,
    rfl, rfl, rfl, rfl⟩

/-- The two rows with `D = 0`. -/
theorem witness_ButtonTransitionTable_noWindow :
    (let s := { State.resetWith noWindow with contacts := ⟨true, true⟩ }
     s.fault = false ∧ ButtonInv s ∧ (s.btn .b1).IsIdle false ∧ debounceDelay s.par .b1 = 0 ∧
     samplePressed .b1 s = true) ∧
    (let s := { State.resetWith noWindow with btn1 := idle true }
     s.fault = false ∧ ButtonInv s ∧ (s.btn .b1).IsIdle true ∧ debounceDelay s.par .b1 = 0 ∧
     samplePressed .b1 s = false) :=
  ⟨⟨rfl, fun b _ => by cases b <;> rfl, ⟨rfl, rfl⟩, rfl, rfl⟩,
    ⟨rfl, fun b _ => by cases b <;> rfl, ⟨rfl, rfl⟩, rfl, rfl⟩⟩

theorem witness_HoldTakesNoSample :
    let s := button (debouncing true 120) false
    s.fault = false ∧ (s.btn .b0).debValid = true ∧ 119 < (s.btn .b0).debUntil := by decide

theorem witness_ZeroDelayTrustsEverySample :
    let s := { State.resetWith noWindow with contacts := ⟨true, true⟩ }
    s.fault = false ∧ ButtonInv s ∧ debounceDelay s.par .b1 = 0 :=
  ⟨rfl, fun b _ => by cases b <;> rfl, rfl⟩

/-- B1 rows 1 to 3: an edge at 100, then updates up to the last one before the deadline. -/
theorem witness_EdgesAreOneWindowApart :
    let s := button (idle false) true
    let t := btnUpdateRun .b0 100 s
    s.fault = false ∧ exec (.btnUpdate .b0 100) s = .next t ∧ t.answers 3 ∧ 0 < debounceDelay s.par .b0 ∧
    100 + debounceDelay s.par .b0 < 2 ^ s.par.msW ∧
    (∀ u ∈ [(100, false), (119, true)], 100 ≤ u.1 ∧ u.1 < 100 + debounceDelay s.par .b0) :=
  ⟨rfl, rfl, rfl, by decide, by decide, by decide⟩

theorem witness_AddTimePolicy :
    ((engine false 8000 0).fault = false ∧
      8 * (engine false 8000 0).par.segPeriod ≤ (engine false 8000 0).eng.remaining) ∧
    (engine false 7999 0).fault = false ∧
      (engine false 7999 0).eng.remaining < 8 * (engine false 7999 0).par.segPeriod := by decide

theorem witness_NinthAddTimeWrapsToOneSegment :
    State.reset.fault = false ∧ State.reset.eng.remaining = 0 := by decide

theorem engine_inv {r : Nat} (h : r ≤ 8000) (running : Bool) (last : Nat) : EngineInv (engine running r last) := h

/-- One budget for each case of the directive, at the bounds of the fast window and of the ring. -/
theorem witness_DirectiveCases :
    ((engine false 8000 0).fault = false ∧ EngineInv (engine false 8000 0) ∧
      (engine false 8000 0).eng.remaining % (engine false 8000 0).par.segPeriod = 0) ∧
    (EngineInv (engine true 0 0) ∧ (engine true 0 0).eng.remaining = 0) ∧
    (EngineInv (engine true 8000 0) ∧ 0 < (engine true 8000 0).eng.remaining ∧
      (engine true 8000 0).eng.remaining % (engine true 8000 0).par.segPeriod = 0) ∧
    (EngineInv (engine false 7999 0) ∧
      (engine false 7999 0).eng.remaining % (engine false 7999 0).par.segPeriod ≠ 0) ∧
    (EngineInv (engine true 7333 0) ∧ (engine true 7333 0).eng.remaining % (engine true 7333 0).par.segPeriod =
      (engine true 7333 0).par.segPeriod / 3) ∧
    (EngineInv (engine true 7334 0) ∧ (engine true 7334 0).eng.remaining % (engine true 7334 0).par.segPeriod =
      (engine true 7334 0).par.segPeriod / 3 + 1) := by
  refine ⟨⟨rfl, engine_inv ?_ _ _, ?_⟩, ⟨engine_inv ?_ _ _, ?_⟩, ⟨engine_inv ?_ _ _, ?_, ?_⟩, ⟨engine_inv ?_ _ _, ?_⟩,
    ⟨engine_inv ?_ _ _, ?_⟩, ⟨engine_inv ?_ _ _, ?_⟩⟩ <;> decide

theorem witness_DirectiveStaysOnTheRing :
    EngineInv (engine true 7001 0) ∧ (engine true 7001 0).directive.kind = .fast :=
  ⟨engine_inv (by decide) _ _, by decide⟩

/-- On a boundary, and off one. -/
theorem witness_DirectiveAccountsForTheBudget :
    (EngineInv (engine true 8000 0) ∧ (engine true 8000 0).eng.remaining % (engine true 8000 0).par.segPeriod = 0) ∧
    EngineInv (engine true 7999 0) ∧ (engine true 7999 0).directive.kind ≠ .all :=
  ⟨⟨engine_inv (by decide) _ _, by decide⟩, engine_inv (by decide) _ _, by decide⟩

theorem witness_EngineUpdateIsItsSubOperations :
    (engine true 1000 100).fault = false ∧ EngineInv (engine true 1000 100) := ⟨rfl, engine_inv (by decide) _ _⟩

/-- Row E2: 5 ms left, 9 ms elapsed, and the start/stop button pushed. -/
theorem witness_ExpiryAndStopRenderInOneFrame :
    let s := { engine true 5 100 with contacts := ⟨true, false⟩ }
    let t0 := btnUpdateRun .b0 109 s
    let t1 := btnUpdateRun .b1 109 s
    s.fault = false ∧ EngineInv s ∧ s.eng.running = true ∧ s.eng.remaining ≤ 109 - s.eng.lastUpdate ∧
    exec (.btnUpdate .b0 109) s = .next t0 ∧ t0.answers 3 ∧ exec (.btnUpdate .b1 109) s = .next t1 ∧ ¬ t1.answers 3 :=
  ⟨rfl, by unfold EngineInv; decide, rfl, by decide, rfl, rfl, rfl, by unfold State.answers; decide⟩

theorem witness_OnlyADirectFrameCanFault :
    let s := withMove (.command 0x6000000000000000000) (engine true 8000 0)
    s.fault = false ∧ EngineInv s ∧ step s = .next { s with
      env := ⟨[], [], 0⟩, eng := ⟨true, 1000, 0⟩, rsp := some ⟨.ok, 0⟩ } ∧
    (∀ w n kind now, (nextEvent s).1 = .command w → decode s.par.msW w ≠ .ok (.dspUpdate n kind now)) := by
  refine ⟨rfl, by unfold EngineInv; decide, rfl, ?_⟩
  intro w n kind now h
  injection h with h
  subst h
  intro h
  have hd : decode 64 0x6000000000000000000 = .ok .engAddtime := by decide
  exact absurd (hd.symm.trans h) (by simp)

/-- Each clause at its boundary: `n = 9`, and `n = 8` with a blinking kind. -/
theorem witness_FrameRangeChecksFault :
    State.reset.fault = false ∧ 8 < (9 : BitVec 4).toNat ∧ (8 : BitVec 4).toNat = 8 := by decide

/-- `(8, None)` and `(7, Fast)`, with and without the resync. -/
theorem witness_LegalFrameRunsSolidThenBlinky :
    State.reset.fault = false ∧ BlinkKind.none ≠ .all ∧ (8 : BitVec 4).toNat ≤ 8 ∧ BlinkKind.fast ≠ .all ∧
    (7 : BitVec 4).toNat ≤ 7 ∧ 8 ≠ State.reset.dsp.numOn ∧
    ¬(7 ≠ (shown { Dsp.reset with led := 0x7F, numOn := 7 }).dsp.numOn ∨
      (shown { Dsp.reset with led := 0x7F, numOn := 7 }).dsp.wasAll = true) := by decide

/-- One state for each clause: nothing blinks, `None` stops a blink, same index with the deadline reached, another index. -/
theorem witness_ResyncFrameLeds :
    (State.reset.fault = false ∧ 3 ≠ State.reset.dsp.numOn ∧ State.reset.dsp.blValid = false) ∧
    (let s := shown (blinking 0b00000111 2 2 true 2200)
     s.fault = false ∧ 3 ≠ s.dsp.numOn ∧ s.dsp.blValid = true ∧ s.dsp.blIdx.toNat ≠ (3 : BitVec 4).toNat) ∧
    (let s := shown { blinking 0b00000111 2 2 true 2200 with wasAll := true }
     s.fault = false ∧ s.dsp.wasAll = true ∧ s.dsp.blValid = true ∧ s.dsp.blIdx.toNat = (2 : BitVec 4).toNat) := by
  decide

/-- Both disjuncts. -/
theorem witness_RepeatedFrameWritesNothing :
    (let s := shown { Dsp.reset with led := 0b00000111, numOn := 3 }
     s.fault = false ∧ 3 = s.dsp.numOn ∧ s.dsp.wasAll = false ∧ s.dsp.blValid = false) ∧
    (let s := shown (blinking 0b00001111 3 3 false 420)
     s.fault = false ∧ 3 = s.dsp.numOn ∧ s.dsp.wasAll = false ∧ s.dsp.blValid = true ∧
     s.dsp.blIdx.toNat = (3 : BitVec 4).toNat ∧ 419 < s.dsp.blNext) := by decide

theorem dark_inv : DisplayInv State.reset where
  numOn_le := by decide
  all_noBlink h := by cases h
  all_lockstep h := by cases h
  blink_at _ h := by cases h
  above_off _ := by decide

theorem witness_BlinkStartsLitWithPhaseOff :
    State.reset.fault = false ∧ DisplayInv State.reset ∧ (7 : BitVec 4).toNat ≤ 7 ∧ State.reset.dsp.blValid = false :=
  ⟨rfl, dark_inv, by decide, rfl⟩

theorem witness_ResyncRewritesTheRing : State.reset.fault = false ∧ (8 : BitVec 4).toNat ≤ 8 := by decide

/-- Nothing blinks; LED 3 blinks and its deadline is 420; another index. -/
theorem witness_BlinkyUpdateCases :
    (State.reset.fault = false ∧ State.reset.dsp.blValid = false) ∧
    (let s := shown (blinking 0b00001111 3 3 false 420)
     s.fault = false ∧ s.dsp.blValid = true ∧ s.dsp.blNext ≤ 420 ∧ 419 < s.dsp.blNext ∧ 2 ≠ s.dsp.blIdx) := by decide

/-- Both phases. -/
theorem witness_ToggleFlipsLedAndPhase :
    (let s := shown (blinking 0b00001111 3 3 false 420)
     s.fault = false ∧ s.dsp.blValid = true ∧ s.dsp.blOn = false) ∧
    (let s := shown (blinking 0b00000111 3 3 true 1020)
     s.fault = false ∧ s.dsp.blValid = true ∧ s.dsp.blOn = true) := by decide

theorem witness_AllUpdateCases :
    (State.reset.fault = false ∧ State.reset.dsp.wasAll = false) ∧
    (let s := shown (flashing 0xFF 2 true 600)
     s.fault = false ∧ s.dsp.wasAll = true ∧ s.dsp.allNext ≤ 600 ∧ 599 < s.dsp.allNext) := by decide

theorem witness_AllFrameRunsAllUpdate : State.reset.fault = false ∧ (8 : BitVec 4).toNat ≤ 8 := by decide

/-- `CLK.INIT` changes the clock, `ENG.UPDATE` the buttons, the engine and the display, `DSP.UPDATE` the fault record. -/
theorem witness_EachUnitHasItsMutators :
    ends (exec .clkInit State.reset) (fun t => t.clk != State.reset.clk) = true ∧
    ends (exec .clkInit (coarse 0 5 true [])) (fun t => t.hwt != (coarse 0 5 true []).hwt) = true ∧
    ends (exec (.engUpdate 0) { State.reset with contacts := ⟨true, true⟩ }) (fun t => t.btn0 != State.reset.btn0 &&
      t.btn1 != State.reset.btn1 && t.eng != State.reset.eng && t.dsp != State.reset.dsp) = true ∧
    ends (exec (.dspUpdate 9 .none 0) State.reset) (fun t => t.fault != State.reset.fault) = true := by decide

theorem witness_LedsChangeOnlyInFramesOrReset :
    ends (step (withMove (.command 0x80C0000000000000000) State.reset)) (fun t => t.ledO != State.reset.ledO) = true ∧
    ends (step (withMove .reset (shown (flashing 0xFF 0 true 500)))) (fun t => t.ledO != 0xFF) = true := by decide

theorem witness_FaultIsSticky :
    let s := withMove (.command 0) { State.reset with fault := true, faultCause := 1 }
    s.fault = true ∧ s.waiting = false ∧ step s = .next { s with env := ⟨[], [], 0⟩, rsp := some ⟨.fault, 0⟩ } ∧
    (nextEvent s).1 ≠ .reset := ⟨rfl, rfl, rfl, by decide⟩

theorem witness_ResetClearsTheBlock :
    (withMove .reset { State.reset with fault := true, faultCause := 1 }).env.events = .reset :: [] := by decide

theorem witness_ConfigurationIsConstant :
    let s := withMove (.advance 5) State.reset
    step s = .next (hwtAdvance 5 { s with env := ⟨[], [], 0⟩ }) := rfl

/-- The fine variant with the flag set; a wait with words and a contact change in it, at the count before the wrap and at
the wrap (P6, command 5). -/
theorem witness_TickFeedsTheEngineTheClock :
    (let s := fine 0 0 0 true [3, 4]
     s.fault = false ∧ s.clk.clkValid = true ∧ s.hwt.wrapf = true ∧ EngineInv s ∧ ClockInv s ∧ s.par.variant = .fine) ∧
    (let s := fine 8007 7 7997 false [2, 30]
     s.fault = false ∧ s.clk.clkValid = true ∧ EngineInv s ∧ ClockInv s ∧ s.hwt.wrapf = false ∧
     .reset ∉ [Event.advance 3, .contact .b1 true, .command 0] ∧
     ¬ maxCount s.par < s.hwt.phase.toNat + advanceTotal [.advance 3, .contact .b1 true, .command 0] ∧
     .reset ∉ [Event.advance 3, .command 0, .advance 1] ∧
     maxCount s.par < s.hwt.phase.toNat + advanceTotal [.advance 3, .command 0, .advance 1]) := by
  refine ⟨⟨rfl, rfl, rfl, ?_, fine_inv (by decide) (by decide) (by decide), rfl⟩,
    ⟨rfl, rfl, ?_, fine_inv (by decide) (by decide) (by decide), rfl, ?_⟩⟩
  · unfold EngineInv
    decide
  · unfold EngineInv
    decide
  · decide

/-- The coarse variant, with the flag set. -/
theorem witness_TickFeedsTheEngineTheClock_coarse :
    let s := coarse 0 0 true [0]
    s.fault = false ∧ s.clk.clkValid = true ∧ s.hwt.wrapf = true ∧ EngineInv s ∧ ClockInv s ∧ s.par.variant = .coarse :=
  ⟨rfl, rfl, rfl, by unfold EngineInv; decide,
    { coarse_fticks := fun _ => rfl
      coarse_lastRead := fun _ => rfl
      fine_msAcc := fun h => by cases h
      reload_ok := fun _ => (by decide : reloadOk (coarse 0 0 true [0]).par = true)
      lastRead_le := fun _ => by decide
      phase_le := fun _ => by decide
      fine_flag := fun h => by cases h }, rfl⟩

/-- P5, commands 2 to 4, with HWT moving and the add-time contact closing only after the clock is read. -/
theorem test_tick_with_moves_between :
    ends (tick ⟨[], ⟨9998, ⟨false, false⟩⟩, ⟨3, ⟨false, true⟩⟩⟩ (coarse 0 0 true [0]))
      (fun t => t.clk.msAcc == 10 && t.eng.remaining == 1000 && t.eng.lastUpdate == 10 && t.hwt.phase == 10001 &&
        t.dsp.led == 0b00000001) = true := by decide

/-- P6, commands 5 to 7: the wait blocks, and ends when HWT has advanced four more counts. -/
theorem test_tick_through_a_blocked_wait :
    ends (tick ⟨[.advance 3, .command 0, .advance 1], ⟨0, ⟨false, true⟩⟩, ⟨0, ⟨false, true⟩⟩⟩
      { fine 8007 7 7997 false [2, 30] with btn1 := debouncing true 21 })
      (fun t => t.clk.fticks == 16032 && t.clk.lastRead == 32 && t.eng.lastUpdate == 2) = true ∧
    ends (tick ⟨[.advance 3], ⟨0, ⟨false, true⟩⟩, ⟨0, ⟨false, true⟩⟩⟩ (fine 8007 7 7997 false [2, 30]))
      (fun t => t.waiting && t.clk.fticks == 8007) = true := by decide

/-! For the invariants: a state that is not the reset state, with one step of it. -/

theorem witness_StepKeepsTheRanges :
    let s := withMove (.advance 3) (coarse (2 ^ 64 - 1) 0 false [])
    RangeInv s ∧ step s = .next (hwtAdvance 3 { s with env := ⟨[], [], 0⟩ }) :=
  ⟨⟨by decide, by decide, by decide, by decide, by decide, by decide, by decide, fun r h => by cases h⟩, rfl⟩

theorem witness_StepKeepsTheBudget :
    let s := withMove (.command 0x6000000000000000000) (engine true 8000 0)
    EngineInv s ∧ step s = .next { s with env := ⟨[], [], 0⟩, eng := ⟨true, 1000, 0⟩, rsp := some ⟨.ok, 0⟩ } :=
  ⟨by unfold EngineInv; decide, rfl⟩

/-- The reset state, and a state with the fault recorded. -/
theorem witness_StepKeepsTheFaultRecord :
    (FaultInv State.reset) ∧
    (let s := withMove (.command 0) { State.reset with fault := true, faultCause := 2 }
     FaultInv s ∧ step s = .next { s with env := ⟨[], [], 0⟩, rsp := some ⟨.fault, 0⟩ }) :=
  ⟨⟨fun _ => rfl, fun h => Bool.noConfusion h⟩, ⟨fun h => Bool.noConfusion h, fun _ => Or.inr rfl⟩, rfl⟩

/-- The fine clock at its last count before a wrap. -/
theorem witness_StepKeepsTheClock :
    let s := withMove (.advance 1) (fine 7910 7910 8000 false [])
    ClockInv s ∧ step s = .next (hwtAdvance 1 { s with env := ⟨[], [], 0⟩ }) :=
  ⟨{ coarse_fticks := fun h => by cases h
     coarse_lastRead := fun h => by cases h
     fine_msAcc := fun _ => rfl
     reload_ok := fun _ => (by decide : reloadOk (fine 0 0 0 false []).par = true)
     lastRead_le := fun _ => by decide
     phase_le := fun _ => by decide
     fine_flag := fun _ _ _ => by decide }, rfl⟩

theorem witness_StepKeepsTheButtons :
    let s := withMove (.contact .b0 true) (State.resetWith noWindow)
    ButtonInv s ∧ debounceDelay s.par .b0 = 0 ∧ step s = .next (setContact .b0 true { s with env := ⟨[], [], 0⟩ }) :=
  ⟨fun b _ => by cases b <;> rfl, rfl, rfl⟩

/-- A ring that blinks LED 3, and the frame that stops it. -/
theorem witness_StepKeepsTheDisplay :
    let s := withMove (.command 0x8100000000000000000) (shown (blinking 0b00001111 3 3 false 420))
    DisplayInv s ∧ ends (step s) (fun t => t.dsp.led == 0b00000111 && t.dsp.numOn == 4) = true :=
  ⟨{ numOn_le := by decide
     all_noBlink := fun h => by cases h
     all_lockstep := fun h => by cases h
     blink_at := fun _ _ => by decide
     above_off := fun _ => by decide }, by decide⟩

theorem witness_StepKeepsThePort :
    let s := withMove (.advance 10) { fine 7 0 7990 false [] with waiting := true }
    PortInv s ∧ step s = .next (hwtAdvance 10 { s with env := ⟨[], [], 0⟩ }) :=
  ⟨⟨fun _ => rfl, fun _ => rfl, fun _ => rfl⟩, rfl⟩

end Sys2Proof.Tests
end

section
/-! The proofs about the state table of 10_state.md: what reset gives each field (R44), and the bits of `STATUS` (R34). -/

namespace Sys2Proof.Machine

/-! ### Reset (10_state.md R44; 70_reset_and_hazards.md R230, R231) -/

/-- A wait in progress and a recorded fault make no difference to `rst_n`: both kinds of step end in `resetBlock`. -/
theorem stepped_reset {s : State} {rest : List Event} (h : s.env.events = .reset :: rest) :
    stepped s = resetBlock { endPulses s with env := { s.env with events := rest } } := by
  have hmove : nextEvent (endPulses s) = (.reset, { endPulses s with env := { s.env with events := rest } }) :=
    nextEvent_listed (s := endPulses s) h
  unfold stepped
  split
  · rw [waitingStep, hmove]
  · rw [hmove]

/-! ### The `STATUS` word (10_state.md R34) -/

theorem statusWord_getLsbD_zero (s : State) : s.statusWord.getLsbD 0 = s.clk.clkValid := by
  rw [State.statusWord, BitVec.getLsbD_append]
  simp

theorem statusWord_getLsbD_one (s : State) : s.statusWord.getLsbD 1 = s.fault := by
  rw [State.statusWord, BitVec.getLsbD_append, BitVec.getLsbD_append]
  simp

/-- The two low bits are one bit each, so the field at bit 2 is the whole of `fault_cause`. -/
theorem statusWord_faultCause (s : State) : s.statusWord.extractLsb' 2 2 = s.faultCause := by
  have hassoc : s.statusWord = s.faultCause ++ (BitVec.ofBool s.fault ++ BitVec.ofBool s.clk.clkValid) :=
    BitVec.append_assoc
  rw [hassoc, BitVec.extractLsb'_append_eq_left]

end Sys2Proof.Machine

open Sys2Proof.Machine

/-- Settles O49: the step takes the listed reset (`stepped_reset`), whether or not a wait is in progress. -/
theorem resetClearsTheBlock : Obligations.ResetClearsTheBlock := fun _ _ hreset =>
  ⟨_, step_next.mpr (stepped_reset hreset), rfl⟩

/-- Settles O51, a field of the word at a time. -/
theorem statusWordBits : Obligations.StatusWordBits := fun s =>
  ⟨statusWord_getLsbD_zero s, statusWord_getLsbD_one s, statusWord_faultCause s⟩
end

section
/-! The proofs about the command word of 30_encoding.md: the encoding examples of R82. -/

namespace Sys2Proof.Machine

/-- Outside the fault state a word that names no operation is answered `ILLEGAL`, whatever the reason it names none
(30_encoding.md R77 check (2), R78). -/
theorem acceptWord_undecoded {w : Nat} {s : State} {e : DecodeError} (hfault : s.fault = false)
    (hdecode : decode s.par.msW w = .error e) : acceptWord w s = .next { s with rsp := some ⟨.illegal, 0⟩ } := by
  unfold acceptWord
  rw [hdecode]
  simp only [runCommand_ready hfault, refuse_eq]

/-- `acceptWord_undecoded` at the width of the opcode table, where why the word is refused is a fact about numbers. -/
theorem acceptWord_tableWord_undecoded {w : Nat} {s : State} {e : DecodeError} (hdecode : decode tableMsW w = .error e)
    (hfault : s.fault = false) (hwidth : s.par.msW = tableMsW) :
    acceptWord w s = .next { s with rsp := some ⟨.illegal, 0⟩ } :=
  acceptWord_undecoded hfault (hwidth ▸ hdecode)

/-- The code `0x9` is internal. -/
theorem decode_solidResync_word : decode tableMsW 0x9000000000000000000 = .error .internalSolidResync := by decide

/-- The word of `ENG.UPDATE now=1`, but with `z = 1`. -/
theorem decode_nonzeroZ_word : decode tableMsW 0x5400000000000000001 = .error .nonzeroZ := by decide

end Sys2Proof.Machine

open Sys2Proof.Machine

/-- Settles O1: the decoder computes each word of R82, and the two words that name no operation are refused by
`acceptWord_tableWord_undecoded`. -/
theorem sampleWordsDecode : Obligations.SampleWordsDecode :=
  ⟨by decide, by decide, by decide, by decide, by decide, by decide, by decide, by decide, by decide, by decide, by decide,
    fun _ hfault hwidth => ⟨acceptWord_tableWord_undecoded decode_solidResync_word hfault hwidth,
      acceptWord_tableWord_undecoded decode_nonzeroZ_word hfault hwidth⟩⟩
end

section
/-! The proofs about the clock unit of 40_clock.md: the construction of R102. -/

namespace Sys2Proof.Machine

/-- A word of format N with no operands decodes to the operation its code selects (30_encoding.md R72). -/
theorem decode_packWord_noOperands {op : Nat} (hop : op < 16) (msW : Nat) :
    decode msW (packWord msW op 0 0) = decodeOp op 0 0 :=
  decode_packWord hop (by decide) (Nat.two_pow_pos msW)

/-- Check (4) of R77: a clock command in its own variant finds no clock. -/
theorem runClockCommand_noclock {s : State} {legal : Bool} (hfault : s.fault = false) (hlegal : legal = true)
    (hvalid : s.clk.clkValid = false) (run : State → State) :
    runClockCommand legal run s = { s with rsp := some ⟨.noclock, 0⟩ } := by
  rw [← refuse_eq]
  simp [runClockCommand, hfault, hlegal, hvalid]

/-- `CLK.INIT` with the reload count in range: the returned bit fits every port width (40_clock.md R102). -/
theorem exec_clkInit_start {s : State} (hfault : s.fault = false) (hreload : reloadOk s.par = true) :
    exec .clkInit s = .next { clockStart s with rsp := some ⟨.ok, 1⟩ } := by
  have hbit : 1 % 2 ^ (clockStart s).par.msW = 1 := s.cfg.mod_pow_of_lt (by decide)
  rw [exec_next, after, runCommand_ready hfault, clkInitRun, if_pos hreload, respond_eq, hbit]

/-- `CLK.INIT` with the reload count out of range (40_clock.md R102). -/
theorem exec_clkInit_fail {s : State} (hfault : s.fault = false) (hreload : reloadOk s.par ≠ true) :
    exec .clkInit s = .next { clockFail s with rsp := some ⟨.ok, 0⟩ } := by
  rw [exec_next, after, runCommand_ready hfault, clkInitRun, if_neg hreload, respond_eq, Nat.zero_mod]

/-- With a valid clock `reload_o` is the reload count itself: in range, it fits the 24 bits. -/
theorem reloadO_of_valid {s : State} (hvalid : s.clk.clkValid = true) (hreload : reloadOk s.par = true) :
    ∃ c, s.reloadO = some c ∧ c.toNat = reload s.par := by
  refine ⟨BitVec.ofNat 24 (reload s.par), by simp [State.reloadO, hvalid, hreload], ?_⟩
  exact (BitVec.toNat_ofNat _ _).trans (Nat.mod_eq_of_lt (maxCount_lt hreload))

end Sys2Proof.Machine

open Sys2Proof.Machine

/-- Settles O12: `reloadOk` is the range of R102, so the two cases are those of `exec_clkInit_start` and
`exec_clkInit_fail`, and after the second every clock command fails check (4). -/
theorem clkInitProducesAClockInRange : Obligations.ClkInitProducesAClockInRange := by
  intro s hfault
  refine ⟨decode_packWord_noOperands (by decide) s.par.msW, fun hrange => ?_, fun hrange => ?_⟩
  · have hreload : reloadOk s.par = true := (reloadOk_iff s.par).mpr hrange
    exact ⟨_, exec_clkInit_start hfault hreload, rfl, reloadO_of_valid rfl hreload⟩
  · intro t
    have hready : t.fault = false := hfault
    have hnoClock : t.clk.clkValid = false := rfl
    have hreload : reloadOk s.par ≠ true := fun h => by
      obtain ⟨hlow, hhigh⟩ := (reloadOk_iff s.par).mp h
      exact hrange.elim (Nat.not_lt.mpr hlow) (Nat.not_lt.mpr hhigh)
    refine ⟨exec_clkInit_fail hfault hreload, ?_, fun hcoarse => ?_, fun hfine => ?_⟩
    · exact exec_next.mpr (runClockCommand_noclock hready rfl hnoClock _)
    · exact exec_next.mpr (runClockCommand_noclock hready (decide_eq_true hcoarse) hnoClock _)
    · exact exec_next.mpr (runClockCommand_noclock hready (decide_eq_true hfine) hnoClock _)
end

section
/-! The proofs about the button unit of 41_button.md: the transition table of R124, the hold of R122 and the zero delay of
R123. -/

namespace Sys2Proof.Machine

/-! ### When an update holds (41_button.md R121) -/

theorem Btn.holds_iff {B : Btn} {now : Nat} : B.holds now = true ↔ B.debValid = true ∧ now < B.debUntil := by
  simp [Btn.holds]

theorem Btn.holds_of_noDeadline {B : Btn} (h : B.debValid = false) (now : Nat) : B.holds now = false := by
  simp [Btn.holds, h]

/-- An idle button takes a sample at every `now`. -/
theorem Btn.IsIdle.samples {B : Btn} {level : Bool} (h : B.IsIdle level) (now : Nat) :
    B.holds now = false ∧ B.level = level := by
  obtain ⟨hidle, hlevel⟩ := h
  exact ⟨Btn.holds_of_noDeadline hidle now, hlevel⟩

/-- A debouncing button takes a sample from its deadline on, `now = d` included. -/
theorem Btn.IsDebouncing.samples {B : Btn} {level : Bool} {d now : Nat} (h : B.IsDebouncing level d) (hnow : d ≤ now) :
    B.holds now = false ∧ B.level = level := by
  obtain ⟨-, hlevel, rfl⟩ := h
  exact ⟨by simp [Btn.holds, hnow], hlevel⟩

/-! ### The event and the next state of an evaluation (41_button.md R124) -/

section
variable {msW delay now : Nat} {B : Btn} {level : Bool}

/-- The rows of a hold. -/
theorem buttonEval_row_hold {d : Nat} (hB : B.IsDebouncing level d) (hnow : now < d) (p : Bool) :
    (buttonEval msW delay B now p).1.code = (levelEvent level).code ∧
      (buttonEval msW delay B now p).2.IsDebouncing level d := by
  obtain ⟨hvalid, rfl, rfl⟩ := hB
  rw [buttonEval_hold (Btn.holds_iff.mpr ⟨hvalid, hnow⟩)]
  exact ⟨rfl, hvalid, rfl, rfl⟩

/-- The rows of a sample equal to the remembered level. -/
theorem buttonEval_row_level (hsamples : B.holds now = false ∧ B.level = level) {p : Bool} (hp : p = level) :
    (buttonEval msW delay B now p).1.code = (levelEvent level).code ∧ (buttonEval msW delay B now p).2.IsIdle level := by
  obtain ⟨hsamples, rfl⟩ := hsamples
  subst hp
  rw [buttonEval_level hsamples]
  exact ⟨rfl, rfl, rfl⟩

/-- The rows of an edge with a window: the state after is `Debouncing` until one delay after `now`. -/
theorem buttonEval_row_edge (hsamples : B.holds now = false ∧ B.level = level) (hdelay : 0 < delay) {p : Bool}
    (hp : p = !level) :
    (buttonEval msW delay B now p).1.code = (edgeEvent (!level)).code ∧
      (buttonEval msW delay B now p).2.IsDebouncing (!level) ((now + delay) % 2 ^ msW) := by
  obtain ⟨hsamples, rfl⟩ := hsamples
  subst hp
  rw [buttonEval_edge hsamples (Bool.not_ne_self _) hdelay]
  exact ⟨rfl, rfl, rfl, rfl⟩

/-- The rows of an edge without a window. -/
theorem buttonEval_row_edge_zero (hsamples : B.holds now = false ∧ B.level = level) (hdelay : delay = 0)
    {p : Bool} (hp : p = !level) :
    (buttonEval msW delay B now p).1.code = (edgeEvent (!level)).code ∧
      (buttonEval msW delay B now p).2.IsIdle (!level) := by
  obtain ⟨hsamples, rfl⟩ := hsamples
  subst hp hdelay
  rw [buttonEval_edge_zero hsamples (Bool.not_ne_self _)]
  exact ⟨rfl, rfl, rfl⟩

/-- An idle button with delay 0 takes the sample as its level and stays idle (41_button.md R123). -/
theorem buttonEval_zero (hidle : B.debValid = false) (p : Bool) :
    buttonEval msW 0 B now p = (if p = B.level then levelEvent p else edgeEvent p, { B with level := p }) := by
  have hsamples := Btn.holds_of_noDeadline hidle now
  by_cases hp : p = B.level
  · subst hp
    rw [buttonEval_level hsamples, if_pos rfl, ← hidle]
  · rw [buttonEval_edge_zero hsamples hp, if_neg hp, ← hidle]

end

/-- The code of that event: bit 1 is the sample, bit 0 says whether it differs from the level (10_state.md R26). -/
theorem sampledEvent_code (p level : Bool) : (if p = level then levelEvent p else edgeEvent p).code =
    (if p then 2 else 0) + (if p = level then 0 else 1) := by
  revert p level
  decide

/-! ### The command (30_encoding.md R75) -/

/-- Outside the fault state `BTN.UPDATE` writes the one button and answers the event: its code fits every port width. -/
theorem exec_btnUpdate {s : State} {b : BtnId} {now : Nat} {e : ButtonEvent} {B : Btn} (hfault : s.fault = false)
    (hresult : buttonResult b now s = (e, B)) :
    exec (.btnUpdate b now) s = .next { s.setBtn b B with rsp := some ⟨.ok, e.code⟩ } := by
  have hcode : e.code % 2 ^ (s.setBtn b B).par.msW = e.code :=
    (s.setBtn b B).cfg.mod_pow_of_lt (Nat.lt_trans e.code_lt (by decide))
  rw [exec_next, after, runCommand_ready hfault, btnUpdateRun, buttonUpdate_eq, hresult, respond_eq, hcode]

/-- A hold changes nothing but the response (41_button.md R122). -/
theorem exec_btnUpdate_hold {s : State} {b : BtnId} {now : Nat} (hfault : s.fault = false)
    (hhold : (s.btn b).holds now = true) : exec (.btnUpdate b now) s =
      .next { s with rsp := some ⟨.ok, if (s.btn b).level then 2 else 0⟩ } := by
  have hresult : buttonResult b now s = (levelEvent (s.btn b).level, s.btn b) := buttonEval_hold hhold _ _ _
  rw [exec_btnUpdate hfault hresult, setBtn_btn_self, levelEvent_code]

end Sys2Proof.Machine

open Sys2Proof.Machine

/-- Settles O24: a row of the table is a hold, a sample of the remembered level, or an edge with or without a window. A
stored deadline rules the zero delay out (`ButtonInv`), so the edge rows of `Debouncing` are edges with a window. -/
theorem buttonTransitionTable : Obligations.ButtonTransitionTable := by
  intro s b now hfault hinv D u p
  have hwindow (hvalid : (s.btn b).debValid = true) : 0 < D :=
    Nat.pos_of_ne_zero fun hzero => Bool.false_ne_true ((hinv b hzero).symm.trans hvalid)
  exact ⟨hwindow, _, _, _, exec_btnUpdate hfault rfl, rfl,
    fun h => buttonEval_row_level (h.samples now),
    fun h hdelay hp => buttonEval_row_edge (h.samples now) hdelay hp,
    fun h hdelay hp => buttonEval_row_edge_zero (h.samples now) hdelay hp,
    fun h => buttonEval_row_level (h.samples now),
    fun h hdelay hp => buttonEval_row_edge (h.samples now) hdelay hp,
    fun h hdelay hp => buttonEval_row_edge_zero (h.samples now) hdelay hp,
    fun _ h hd => buttonEval_row_hold h hd p,
    fun _ h hd => buttonEval_row_hold h hd p,
    fun _ h hd => buttonEval_row_level (h.samples hd),
    fun _ h hd => buttonEval_row_edge (h.samples hd) (hwindow h.1),
    fun _ h hd => buttonEval_row_level (h.samples hd),
    fun _ h hd => buttonEval_row_edge (h.samples hd) (hwindow h.1)⟩

/-- Settles O25: by `exec_btnUpdate_hold`, whose condition and response do not mention the contacts. -/
theorem holdTakesNoSample : Obligations.HoldTakesNoSample := fun s _ _ contacts hfault hvalid hnow =>
  exec_btnUpdate_hold (s := { s with contacts := contacts }) hfault (Btn.holds_iff.mpr ⟨hvalid, hnow⟩)

/-- Settles O26: with delay 0 the button is idle (`ButtonInv`), so `buttonEval_zero` gives its update. -/
theorem zeroDelayTrustsEverySample : Obligations.ZeroDelayTrustsEverySample := by
  intro s b now hfault hinv hzero
  have hresult := buttonEval_zero (msW := s.par.msW) (now := now) (hinv b hzero) (samplePressed b s)
  rw [← hzero] at hresult
  rw [exec_btnUpdate hfault hresult, sampledEvent_code]
end

section
/-! The proofs about the engine unit of 42_engine.md: adding time (R144), the LEDs of a directive (R149) and the update in
which the budget runs out (R152). -/

namespace Sys2Proof.Machine

/-! ### Adding time (42_engine.md R144) -/

/-- Outside the fault state `ENG.ADDTIME` writes the budget and nothing else, and answers `OK`. -/
theorem exec_engAddtime {s : State} (hfault : s.fault = false) : exec .engAddtime s = .next { s with
    eng := { s.eng with remaining := addTime s.par.segPeriod s.eng.remaining }, rsp := some ⟨.ok, 0⟩ } := by
  rw [exec_next, after, runCommand_ready hfault, respond_eq, Nat.zero_mod]
  rfl

/-! ### The LEDs of a directive (42_engine.md R149) -/

/-- The solid LEDs of a directive, and the blinking one of the kinds `Fast` and `Slow`. -/
def Directive.lit (d : Directive) : Nat := d.n.toNat + if d.kind = .fast ∨ d.kind = .slow then 1 else 0

/-- The budget rounded up to whole segments: one more than the whole ones off a boundary. -/
theorem ceil_segments {seg : Nat} (hseg : 1 ≤ seg) (r : Nat) :
    (r + seg - 1) / seg = r / seg + if r % seg = 0 then 0 else 1 := by
  have hlt : seg - 1 < seg := by omega
  rw [Nat.add_sub_assoc hseg, Nat.add_div hseg, Nat.div_eq_of_lt hlt, Nat.mod_eq_of_lt hlt, Nat.add_zero]
  congr 1
  by_cases hm : r % seg = 0
  · rw [if_neg (by omega), if_pos hm]
  · rw [if_pos (by omega), if_neg hm]

/-- Every directive lights or blinks the whole segments, and one more LED off a boundary, as long as the count fits its
four bits. -/
theorem directiveOf_lit {seg r : Nat} (running : Bool) (hfits : r / seg < 15) :
    (directiveOf seg running r).lit = r / seg + if r % seg = 0 then 0 else 1 := by
  have hcount {n : Nat} (hn : n < 16) : (BitVec.ofNat 4 n).toNat = n := BitVec.toNat_ofNat n 4 ▸ Nat.mod_eq_of_lt hn
  by_cases hm : r % seg = 0
  · cases running with
    | false => simp [directiveOf, Directive.lit, hm, hcount (show r / seg < 16 by omega)]
    | true =>
      by_cases hr : r = 0
      · simp [directiveOf, Directive.lit, hr]
      · have hwhole : r / seg ≠ 0 := fun h0 => hr (by rw [← Nat.div_add_mod r seg, h0, hm, Nat.mul_zero])
        have hcancel : r / seg - 1 + 1 = r / seg := Nat.sub_add_cancel (Nat.pos_of_ne_zero hwhole)
        simp [directiveOf, Directive.lit, hm, hr, hcount (show r / seg - 1 < 16 by omega), hcancel]
  · cases running with
    | false => simp [directiveOf, Directive.lit, hm, hcount (show r / seg + 1 < 16 by omega)]
    | true =>
      by_cases hfast : r % seg ≤ seg / 3 <;>
        simp [directiveOf, Directive.lit, hm, hfast, hcount (show r / seg < 16 by omega)]

/-- The directive under the budget invariant: at most eight whole segments. -/
theorem directive_lit {s : State} (hinv : EngineInv s) : s.directive.lit =
    s.eng.remaining / s.par.segPeriod + if s.eng.remaining % s.par.segPeriod = 0 then 0 else 1 := by
  have hring : s.eng.remaining / s.par.segPeriod ≤ 8 :=
    Nat.div_le_of_le_mul (Nat.le_trans hinv (Nat.mul_comm ..).le)
  exact directiveOf_lit _ (Nat.lt_of_le_of_lt hring (by decide))

/-! ### A frame that is not `All` (43_display.md R161, R164) -/

/-- Such a frame records its count, leaves `All` mode, and an LED blinks after it exactly for a blinking kind. -/
theorem frameNotAll_mode (p : Params) (n : BitVec 4) (kind : BlinkKind) (now : Nat) (d : Dsp) :
    (frameNotAll p n kind now d).numOn = n ∧ (frameNotAll p n kind now d).wasAll = false ∧
      (frameNotAll p n kind now d).blValid = isBlink kind := by
  have hnum : (if n ≠ d.numOn ∨ d.wasAll = true then resync n d else d).numOn = n := by
    by_cases h : n ≠ d.numOn ∨ d.wasAll = true
    · rw [if_pos h]
      rfl
    · rw [if_neg h]
      exact (not_not.mp (not_or.mp h).1).symm
  simp only [frameNotAll]
  generalize (if n ≠ d.numOn ∨ d.wasAll = true then resync n d else d) = e at hnum ⊢
  obtain ⟨hkeepNum, hkeepAll, -, -⟩ := blinky_keeps p (blinkIndexOf n kind) (decide (kind = .fast)) now
    { e with wasAll := false }
  obtain ⟨hblinks, -⟩ := blinky_index p (blinkIndexOf n kind) (decide (kind = .fast)) now { e with wasAll := false }
  refine ⟨hkeepNum.trans hnum, hkeepAll, hblinks.trans ?_⟩
  cases kind <;> rfl

/-! ### The update (42_engine.md R141, R152) -/

/-- `BTN.UPDATE` answers 3 exactly when the evaluation of the button is a `Push`. -/
theorem btnUpdate_answers_push {s t : State} {b : BtnId} {now : Nat} (hfault : s.fault = false)
    (h : exec (.btnUpdate b now) s = .next t) : t.answers 3 ↔ (buttonResult b now s).1 = .push := by
  rcases hresult : buttonResult b now s with ⟨e, B⟩
  rw [exec_btnUpdate hfault hresult] at h
  injection h with ht
  subst ht
  simp [State.answers, ButtonEvent.code_eq_three]

/-- An update whose frame is legal: the inputs, the new display, `last_update`, and the status `OK`. -/
theorem exec_engUpdate {s : State} {now : Nat} {d : Dsp} (hfault : s.fault = false)
    (hframe : frame (engineInputs now s).par (engineInputs now s).directive.n (engineInputs now s).directive.kind now
      (engineInputs now s).dsp = .ok d) :
    exec (.engUpdate now) s = .next { engineInputs now s with
      dsp := d, eng := { (engineInputs now s).eng with lastUpdate := now }, rsp := some ⟨.ok, 0⟩ } := by
  rw [exec_next, after, runCommand_ready hfault]
  simp only [engUpdateRun, hframe, respond_eq, Nat.zero_mod]

/-- The elapsed time empties the budget of a running timer and a `Push` of start/stop alone stops it: both happen before
the directive is derived. -/
theorem engineInputs_expiry {s : State} {now : Nat} (hrunning : s.eng.running = true)
    (hexpired : s.eng.remaining ≤ now - s.eng.lastUpdate) (hpush0 : (buttonResult .b0 now s).1 = .push)
    (hpush1 : (buttonResult .b1 now s).1 ≠ .push) :
    (engineInputs now s).eng.running = false ∧ (engineInputs now s).eng.remaining = 0 := by
  rw [engineInputs_eq]
  have hempty : decayed now s = 0 := by rw [decayed, if_pos hrunning, Nat.sub_eq_zero_of_le hexpired]
  simp [hpush0, hpush1, hrunning, hempty]

/-- A paused timer with no budget lights nothing. -/
theorem directive_paused_empty {s : State} (hpaused : s.eng.running = false) (hempty : s.eng.remaining = 0) :
    s.directive = ⟨0, .none⟩ := by
  simp [State.directive, directiveOf, hpaused, hempty]

end Sys2Proof.Machine

open Sys2Proof.Machine

/-- Settles O28: by `exec_engAddtime`, with `addTime` on a full budget and below it. -/
theorem addTimePolicy : Obligations.AddTimePolicy := by
  intro s hfault
  refine ⟨decode_packWord_noOperands (by decide) s.par.msW, fun hfull => ?_, fun hpart => ?_⟩
  · rw [exec_engAddtime hfault, addTime_full hfull]
  · rw [exec_engAddtime hfault, addTime_part hpart]

/-- Settles O32: `directive_lit` and `ceil_segments` count the same segments. The second part holds of `All` too, which
counts no LED for an empty budget. -/
theorem directiveAccountsForTheBudget : Obligations.DirectiveAccountsForTheBudget := by
  intro s hinv
  have hlit := directive_lit hinv
  refine ⟨fun hboundary => ?_, fun _ => hlit.trans (ceil_segments s.cfg.valid.seg_pos _).symm⟩
  rw [if_pos hboundary] at hlit
  calc s.directive.lit * s.par.segPeriod
      _ = s.eng.remaining / s.par.segPeriod * s.par.segPeriod := by rw [hlit, Nat.add_zero]
      _ = s.eng.remaining := Nat.div_mul_cancel (Nat.dvd_of_mod_eq_zero hboundary)

/-- Settles O34: after the inputs the timer is paused and empty (`engineInputs_expiry`), so the frame is `(0, None)`, and
`frameNotAll_mode` says what it leaves. -/
theorem expiryAndStopRenderInOneFrame : Obligations.ExpiryAndStopRenderInOneFrame := by
  intro s t0 t1 now hfault _ hrunning hexpired hexec0 hpush0 hexec1 hpush1
  obtain ⟨hpaused, hempty⟩ := engineInputs_expiry hrunning hexpired ((btnUpdate_answers_push hfault hexec0).mp hpush0)
    fun hpush => hpush1 ((btnUpdate_answers_push hfault hexec1).mpr hpush)
  have hdir := directive_paused_empty hpaused hempty
  obtain ⟨hnum, hall, hblinks⟩ := frameNotAll_mode (engineInputs now s).par 0 .none now (engineInputs now s).dsp
  refine ⟨_, exec_engUpdate hfault (d := frameNotAll (engineInputs now s).par 0 .none now (engineInputs now s).dsp) ?_,
    hpaused, hempty, hdir, hnum, hall, hblinks⟩
  rw [hdir]
  exact frame_notAll (by decide) (by decide) (by decide) _ _ _
end

section
/-! The proofs about the display unit of 43_display.md: its four sub-operations run by themselves (R163, R165, R168, R171),
and the frame that is not `All` as a run of two of them (R161, R162, R164). -/

namespace Sys2Proof.Machine

/-! ### The operations of the unit outside the fault state: each writes the display, and only a frame answers -/

section

variable {s : State}

theorem exec_solidResync (hfault : s.fault = false) (n : BitVec 4) :
    exec (.solidResync n) s = .next { s with dsp := resync n s.dsp } := by
  rw [exec_next, after, runSub_ready hfault]

theorem exec_blinkyUpdate (hfault : s.fault = false) (newIdx : Option (BitVec 3)) (isFast : Bool) (now : Nat) :
    exec (.blinkyUpdate newIdx isFast now) s = .next { s with dsp := blinky s.par newIdx isFast now s.dsp } := by
  rw [exec_next, after, runSub_ready hfault]

theorem exec_blinkyToggle (hfault : s.fault = false) (isFast : Bool) :
    exec (.blinkyToggle isFast) s = .next { s with dsp := toggle s.par isFast s.dsp } := by
  rw [exec_next, after, runSub_ready hfault]

theorem exec_allUpdate (hfault : s.fault = false) (now : Nat) :
    exec (.allUpdate now) s = .next { s with dsp := allUpdate s.par now s.dsp } := by
  rw [exec_next, after, runSub_ready hfault]

theorem exec_dspUpdate {n : BitVec 4} {kind : BlinkKind} {now : Nat} {d : Dsp} (hfault : s.fault = false)
    (hframe : frame s.par n kind now s.dsp = .ok d) :
    exec (.dspUpdate n kind now) s = .next { s with dsp := d, rsp := some ⟨.ok, 0⟩ } := by
  rw [exec_next, after, runCommand_ready hfault]
  simp only [dspUpdateRun, hframe, respond_eq, Nat.zero_mod]

end

/-! ### Toggling (R168, R169) -/

/-- The deadline advances from its old value, by the duration of the phase that is not the old one. -/
theorem toggle_blNext {isFast fast on : Bool} {d : Dsp} (hfast : isFast = fast) (hon : d.blOn = on) (p : Params) :
    (toggle p isFast d).blNext = (d.blNext + toggleDuration p fast (!on)) % 2 ^ p.msW := by
  subst hfast hon
  rfl

/-! ### The all-ring blink (R171) -/

theorem allToggle_eq (p : Params) (d : Dsp) : allToggle p d = { d with
    led := if d.allOn then 0x00 else 0xFF, allOn := !d.allOn, allNext := (d.allNext + p.tAll) % 2 ^ p.msW } := by
  rw [allToggle, ledWriteAll_const]
  cases d.allOn <;> rfl

theorem allUpdate_due {d : Dsp} {now : Nat} (hall : d.wasAll = true) (hdue : d.allNext ≤ now) (p : Params) :
    allUpdate p now d = allToggle p d := by
  simp only [allUpdate, hall, if_true, hdue]

theorem allUpdate_early {d : Dsp} {now : Nat} (hall : d.wasAll = true) (hearly : now < d.allNext) (p : Params) :
    allUpdate p now d = d := by
  simp only [allUpdate, hall, if_true, Nat.not_le.mpr hearly, if_false]

/-- Entry sets the deadline to `now`, so it is reached at once. -/
theorem allUpdate_enter {d : Dsp} (hall : d.wasAll = false) (now : Nat) (p : Params) :
    allUpdate p now d = allToggle p (allEnter now d) := by
  have hdue : (allEnter now d).allNext ≤ now := Nat.le_refl now
  simp only [allUpdate, hall, Bool.false_eq_true, if_false, hdue, if_true]

/-! ### A frame that is not `All` (R161, R162, R164) -/

theorem isBlink_iff {kind : BlinkKind} : isBlink kind = true ↔ kind = .fast ∨ kind = .slow := by
  cases kind <;> decide

theorem blinkIndexOf_eq (n : BitVec 4) (kind : BlinkKind) :
    blinkIndexOf n kind = if kind = .fast ∨ kind = .slow then some (n.setWidth 3) else none := by
  simp only [blinkIndexOf, isBlink_iff]

/-- The solid renderer's part of such a frame: the resync, when the count changes or the ring leaves `All` mode. -/
def resyncIfDue (n : BitVec 4) (d : Dsp) : Dsp := if n ≠ d.numOn ∨ d.wasAll = true then resync n d else d

theorem frameNotAll_eq (p : Params) (n : BitVec 4) (kind : BlinkKind) (now : Nat) (d : Dsp) :
    frameNotAll p n kind now d =
      blinky p (blinkIndexOf n kind) (decide (kind = .fast)) now { resyncIfDue n d with wasAll := false } := rfl

theorem resyncIfDue_schedule (n : BitVec 4) (d : Dsp) :
    (resyncIfDue n d).allOn = d.allOn ∧ (resyncIfDue n d).allNext = d.allNext := by
  unfold resyncIfDue
  split <;> exact ⟨rfl, rfl⟩

theorem frameNotAll_schedule (p : Params) (n : BitVec 4) (kind : BlinkKind) (now : Nat) (d : Dsp) :
    (frameNotAll p n kind now d).allOn = d.allOn ∧ (frameNotAll p n kind now d).allNext = d.allNext := by
  obtain ⟨hon, hnext⟩ := resyncIfDue_schedule n d
  obtain ⟨-, -, hkeepOn, hkeepNext⟩ := blinky_keeps p (blinkIndexOf n kind) (decide (kind = .fast)) now
    { resyncIfDue n d with wasAll := false }
  exact ⟨hkeepOn.trans hon, hkeepNext.trans hnext⟩

/-- The LED that blinks after such a frame is the one whose index is the count. -/
theorem frameNotAll_blIdx {n : BitVec 4} {kind : BlinkKind} (hblink : isBlink kind = true) (hn : n.toNat ≤ 7)
    (p : Params) (now : Nat) (d : Dsp) : (frameNotAll p n kind now d).blIdx.toNat = n.toNat := by
  obtain ⟨-, hidx⟩ := blinky_index p (blinkIndexOf n kind) (decide (kind = .fast)) now
    { resyncIfDue n d with wasAll := false }
  rw [frameNotAll_eq, hidx _ (blinkIndexOf_blink hblink n), setWidth_toNat hn]

/-- `SOLID.RESYNC` commanded when it is due, and otherwise nothing, is `resyncIfDue` on the display. -/
theorem exec_solidResync_ifDue {s : State} (hfault : s.fault = false) (n : BitVec 4) :
    if n ≠ s.dsp.numOn ∨ s.dsp.wasAll = true
      then exec (.solidResync n) s = .next { s with dsp := resyncIfDue n s.dsp }
      else { s with dsp := resyncIfDue n s.dsp } = s := by
  unfold resyncIfDue
  split
  · exact exec_solidResync hfault n
  · rfl

end Sys2Proof.Machine

open Sys2Proof.Machine

/-- Settles O37: both sides are `frameNotAll` on the display, which `frameNotAll_eq` reads as `resyncIfDue` and then
`blinky`; its effect on the mode, the index and the schedule is a lemma each. -/
theorem legalFrameRunsSolidThenBlinky : Obligations.LegalFrameRunsSolidThenBlinky := by
  intro s n kind now hfault hkind hn hblink
  have hframe : frame s.par n kind now s.dsp = .ok (frameNotAll s.par n kind now s.dsp) :=
    frame_notAll hn hkind (fun hb h8 => by have := hblink (isBlink_iff.mp hb); omega) _ _ _
  obtain ⟨hnum, hall, hvalid⟩ := frameNotAll_mode s.par n kind now s.dsp
  obtain ⟨hon, hnext⟩ := frameNotAll_schedule s.par n kind now s.dsp
  refine ⟨{ s with dsp := resyncIfDue n s.dsp }, { s with dsp := frameNotAll s.par n kind now s.dsp }, _,
    exec_solidResync_ifDue hfault n, ?_, exec_dspUpdate hfault hframe, rfl, hnum, hall, ?_,
    fun hk => frameNotAll_blIdx (isBlink_iff.mpr hk) (hblink hk) _ _ _, hon, hnext⟩
  · rw [← blinkIndexOf_eq]
    exact exec_blinkyUpdate (s := { s with dsp := { resyncIfDue n s.dsp with wasAll := false } }) hfault _ _ _
  · rw [← isBlink_iff, ← hvalid]

/-- Settles O41: by `exec_solidResync`, and `resync_led` for each LED. -/
theorem resyncRewritesTheRing : Obligations.ResyncRewritesTheRing := fun s n hfault _ =>
  ⟨decode_packWord_noOperands (by decide) s.par.msW, _, exec_solidResync hfault n, rfl,
    fun _ hi => resync_led n s.dsp hi⟩

/-- Settles O43: by `exec_blinkyToggle`; each clause about the deadline is `toggle_blNext` at one speed and old phase. -/
theorem toggleFlipsLedAndPhase : Obligations.ToggleFlipsLedAndPhase := fun s isFast hfault _ =>
  ⟨decode_packWord_noOperands (by decide) s.par.msW, _, exec_blinkyToggle hfault isFast, rfl,
    fun i _ => toggle_led s.par isFast s.dsp i,
    fun hfast hon => toggle_blNext hfast hon s.par,
    fun hfast hon => toggle_blNext hfast hon s.par,
    fun hfast hon => toggle_blNext hfast hon s.par,
    fun hfast hon => toggle_blNext hfast hon s.par⟩

/-- Settles O42: `exec_blinkyUpdate` with the lemma about `blinky` of each case; the two cases that toggle are
`exec_blinkyToggle` on the prepared state. -/
theorem blinkyUpdateCases : Obligations.BlinkyUpdateCases := by
  intro s isFast now hfault
  refine ⟨decode_packWord_noOperands (by decide) s.par.msW, fun hvalid => ?_, fun hvalid => ?_, fun B hvalid => ?_,
    fun hvalid hdue => ?_, fun hvalid hearly => ?_, fun B hvalid hother => ?_⟩
  · rw [exec_blinkyUpdate hfault, blinky_none_none hvalid]
  · refine ⟨{ s with dsp := blinkStop s.dsp }, ?_, rfl, fun i _ => ?_⟩
    · rw [exec_blinkyUpdate hfault, blinky_some_none hvalid]
    · rw [blinkStop_led]
      by_cases hi : i = s.dsp.blIdx.toNat <;> simp [hi]
  · rw [exec_blinkyUpdate hfault, blinky_none_some hvalid, exec_blinkyToggle (by exact hfault)]
    rfl
  · rw [exec_blinkyUpdate hfault, blinky_due hvalid hdue, exec_blinkyToggle hfault]
  · rw [exec_blinkyUpdate hfault, blinky_early hvalid hearly]
  · rw [exec_blinkyUpdate hfault, blinky_move hvalid hother.symm]
    rfl

/-- Settles O44: `exec_allUpdate` with the lemma about `allUpdate` of each case. -/
theorem allUpdateCases : Obligations.AllUpdateCases := by
  intro s now hfault
  refine ⟨decode_packWord_noOperands (by decide) s.par.msW, fun hall => ?_, fun hall hdue => ?_, fun hall hearly => ?_⟩
  · rw [exec_allUpdate hfault, allUpdate_enter hall, allToggle_eq]
    rfl
  · rw [exec_allUpdate hfault, allUpdate_due hall hdue, allToggle_eq]
  · rw [exec_allUpdate hfault, allUpdate_early hall hearly]
end

section
/-! The proofs about the command word at every width of `Ms`: the encoder and the decoder are inverse to each other on
the host commands (30_encoding.md R71 to R73), and which words name no operation (R77 check (2), R79). -/

namespace Sys2Proof

/-! ### From an operation to its word and back -/

/-- The time operand of a well-formed operation is an `Ms` value. -/
theorem Instr.now_lt_of_wellFormed {msW now : Nat} {i : Instr} (h : i.wellFormed msW = true)
    (htime : i.time = some now) : now < 2 ^ msW := by
  rw [Instr.wellFormed, htime, Bool.and_eq_true] at h
  exact of_decide_eq_true h.1

/-- The fields `n` and `kind` of format D are read back from `a`. -/
theorem decodeD_code (n : BitVec 4) (kind : BlinkKind) (t : Nat) :
    decodeD (n.toNat * 4 + kind.code) t = .ok (.dspUpdate n kind t) := by
  have hkind := kind.code_lt
  have hn : (n.toNat * 4 + kind.code) / 4 = n.toNat := by omega
  rw [decodeD, BlinkKind.ofCode_add, hn, BitVec.ofNat_toNat, BitVec.setWidth_eq]

/-- The button select of format B is read back from `a`. -/
theorem decodeB_code (b : BtnId) (t : Nat) : decodeB b.code t = .ok (.btnUpdate b t) := by cases b <;> rfl

/-- The decoder inverts the encoder on the operations that have a word. -/
theorem decode_encode {msW : Nat} {i : Instr} (hwell : i.wellFormed msW = true) (hhost : i.hostCommand = true) :
    decode msW (encode msW i) = .ok i := by
  have plain {op : Nat} (hop : op < 16) : decode msW (packWord msW op 0 0) = decodeOp op 0 0 :=
    decode_packWord hop (by decide) (Nat.two_pow_pos msW)
  cases i with
  | clkInit | clkWait | clkNow | fclkNow | engAddtime | engDirective => exact plain (by decide)
  | engUpdate now =>
    exact decode_packWord (op := 5) (a := 0) (by decide) (by decide) (Instr.now_lt_of_wellFormed hwell rfl)
  | btnUpdate b now =>
    have ha := b.code_lt
    exact (decode_packWord (op := 4) (by decide) (by omega) (Instr.now_lt_of_wellFormed hwell rfl)).trans
      (decodeB_code b now)
  | dspUpdate n kind now =>
    have hn := n.isLt
    have hkind := kind.code_lt
    exact (decode_packWord (op := 8) (by decide) (by omega) (Instr.now_lt_of_wellFormed hwell rfl)).trans
      (decodeD_code n kind now)
  | solidResync | blinkyUpdate | blinkyToggle | allUpdate => cases hhost

/-! ### From a word to its operation and back -/

/-- When a word decodes: it is a word of the port with `z = 0` whose other fields decode. -/
theorem decode_ok_iff {msW w : Nat} {i : Instr} : decode msW w = .ok i ↔ w / 2 ^ (msW + 12) = 0 ∧ fieldZ msW w = 0 ∧
    decodeOp (fieldOp msW w) (fieldA msW w) (fieldT msW w) = .ok i := by
  unfold decode
  by_cases hwide : w / 2 ^ (msW + 12) = 0 <;> by_cases hz : fieldZ msW w = 0 <;> simp [hwide, hz]

/-- Fields that decode are the fields of the operation's own word. -/
theorem encode_of_decodeOp {op a t : Nat} {i : Instr} (ha : a < 64) (h : decodeOp op a t = .ok i) (msW : Nat) :
    encode msW i = packWord msW op a t := by
  unfold decodeOp at h
  split at h
  case h_1 | h_2 | h_3 | h_4 | h_7 | h_8 => obtain ⟨rfl, rfl, rfl⟩ := decodeN_ok h; rfl
  case h_5 =>
    obtain ⟨hbit, rfl⟩ := decodeB_ok h
    rw [encode, BtnId.code_ofCode hbit]
    rfl
  case h_6 => obtain ⟨rfl, rfl⟩ := decodeT_ok h; rfl
  case h_9 =>
    cases h
    have hn : (BitVec.ofNat 4 (a / 4)).toNat = a / 4 := (BitVec.toNat_ofNat _ _).trans (Nat.mod_eq_of_lt (by omega))
    rw [encode, hn, BlinkKind.code_ofCode, Nat.div_add_mod']
    rfl
  all_goals cases h

/-- A host command is well formed as soon as its time fits: the only bounded count is that of a sub-operation. -/
theorem Instr.wellFormed_of_hostCommand {msW : Nat} {i : Instr} (hhost : i.hostCommand = true)
    (htime : ∀ now, i.time = some now → now < 2 ^ msW) : i.wellFormed msW = true := by
  have hcount : i.countInRange = true := by
    cases i with
    | solidResync => cases hhost
    | _ => rfl
  rw [Instr.wellFormed, hcount, Bool.and_true]
  split
  · rfl
  · exact decide_eq_true (htime _ ‹_›)

/-! ### The words that name no operation -/

theorem decodeN_error_iff {a t : Nat} {i : Instr} : (∃ e, decodeN a t i = .error e) ↔ a ≠ 0 ∨ t ≠ 0 := by
  unfold decodeN
  by_cases ha : a = 0 <;> by_cases ht : t = 0 <;> simp [ha, ht]

theorem decodeT_error_iff {a t : Nat} : (∃ e, decodeT a t = .error e) ↔ a ≠ 0 := by
  unfold decodeT
  by_cases ha : a = 0 <;> simp [ha]

theorem decodeB_error_iff {a t : Nat} : (∃ e, decodeB a t = .error e) ↔ 2 ≤ a := by
  unfold decodeB
  by_cases ha : a / 2 = 0 <;> simp [ha] <;> omega

/-- The fields that name no operation: an internal or reserved code, or a must-be-zero part that is not zero. -/
theorem decodeOp_error_iff (op a t : Nat) : (∃ e, decodeOp op a t = .error e) ↔
    (9 ≤ op ∨ ((op ≤ 3 ∨ op = 6 ∨ op = 7) ∧ (a ≠ 0 ∨ t ≠ 0)) ∨ (op = 5 ∧ a ≠ 0) ∨ (op = 4 ∧ 2 ≤ a)) := by
  unfold decodeOp
  split
  case h_1 | h_2 | h_3 | h_4 | h_7 | h_8 => simp [decodeN_error_iff]
  case h_5 => simp [decodeB_error_iff]
  case h_6 => simp [decodeT_error_iff]
  case h_9 => simp [decodeD]
  case h_10 | h_11 | h_12 | h_13 => simp
  case h_14 =>
    have hop : 9 ≤ op := by simp only [imp_false] at *; omega
    simp [hop]

end Sys2Proof

open Sys2Proof

/-- Settles O2, by `decode_encode`. -/
theorem encodedCommandDecodesBack : Obligations.EncodedCommandDecodesBack := fun _ _ hwell hhost =>
  decode_encode hwell hhost

/-- Settles O3: a word that decodes is the packing of its fields, and these are the fields of the operation's own word
(`encode_of_decodeOp`). -/
theorem decodedWordIsTheCommandsWord : Obligations.DecodedWordIsTheCommandsWord := by
  intro msW w i h
  obtain ⟨hwide, hz, hop⟩ := decode_ok_iff.mp h
  refine ⟨?_, Instr.wellFormed_of_hostCommand (decode_hostCommand h) fun _ => decode_time_lt h, decode_hostCommand h⟩
  rw [encode_of_decodeOp (fieldA_lt msW w) hop msW, packWord_fields hwide hz]

/-- Settles O4: a word of the port is refused for its `z`, or for the rest of its fields (`decodeOp_error_iff`). -/
theorem illegalWordsAreExactlyThese : Obligations.IllegalWordsAreExactlyThese := by
  intro msW w hw
  have hwide : w / 2 ^ (msW + 12) = 0 := Nat.div_eq_of_lt hw
  have hop := decodeOp_error_iff (fieldOp msW w) (fieldA msW w) (fieldT msW w)
  by_cases hz : fieldZ msW w = 0
  · simp only [decode, hwide, hz, ne_eq, not_true_eq_false, if_false, false_or]
    exact hop
  · simp [decode, hwide, hz]
end

section
/-! The proofs about the command port (30_encoding.md R70, R77 to R81): what a step does with the environment's next
move, the refusals of the five checks, and the words presented during a wait. -/

namespace Sys2Proof.Machine

open Host

/-! ### What a step does with the environment's next move -/

/-- A poll where a wait is in progress. -/
def polled (s : State) : State := if s.waiting then pollWait s else s

theorem polled_ready {s : State} (hready : s.waiting = false) : polled s = s := by simp [polled, hready]

theorem polled_waiting {s : State} (hwait : s.waiting = true) : polled s = pollWait s := by simp [polled, hwait]

/-- A step from `s` on the move `e`: the pulses of the step before are over and the environment's record has moved on to
`env`. Then the block is reset, or a contact or HWT has moved and a wait in progress polls; or the move is a word, which
is lost on a wait in progress and otherwise runs its operation or is refused. -/
inductive StepOn (s : State) (env : Env) : Event → State → Prop where
  | reset : StepOn s env .reset (resetBlock { endPulses s with env := env })
  | contact (b : BtnId) (v : Bool) :
    StepOn s env (.contact b v) (polled (setContact b v { endPulses s with env := env }))
  | advance (k : Nat) : StepOn s env (.advance k) (polled (hwtAdvance k { endPulses s with env := env }))
  | ignored (w : Nat) (hwait : s.waiting = true) :
    StepOn s env (.command w) (pollWait { endPulses s with env := env })
  | run (w : Nat) (i : Instr) (hready : s.waiting = false) (hdecode : decode s.par.msW w = .ok i) :
    StepOn s env (.command w) (after i { endPulses s with env := env })
  | illegal (w : Nat) (e : DecodeError) (hready : s.waiting = false) (hdecode : decode s.par.msW w = .error e) :
    StepOn s env (.command w) (runCommand (refuse .illegal) { endPulses s with env := env })

/-- The next move, after the pulses of the step before are over. -/
theorem nextEvent_endPulses_of {s : State} {e : Event} {env : Env} (hnext : nextEvent s = (e, { s with env := env })) :
    nextEvent (endPulses s) = (e, { endPulses s with env := env }) := by
  obtain ⟨hevent, hstate⟩ := nextEvent_endPulses s
  rw [hnext] at hevent hstate
  exact Prod.ext hevent hstate

/-- The step from a state is one on its next move. -/
theorem stepped_stepOn {s : State} {e : Event} {env : Env} (hnext : nextEvent s = (e, { s with env := env })) :
    StepOn s env e (stepped s) := by
  unfold stepped waitingStep
  rw [nextEvent_endPulses_of hnext]
  cases e with
  | reset => simpa only [ite_self] using StepOn.reset
  | contact b v => cases b <;> exact .contact _ v
  | advance k => exact .advance k
  | command w =>
    cases hwait : s.waiting with
    | true => exact .ignored w hwait
    | false =>
      simp only [Bool.false_eq_true, if_false]
      cases hdecode : decode s.par.msW w with
      | ok i => exact .run w i hwait hdecode
      | error r => exact .illegal w r hwait hdecode

/-- A step, by the environment's next move. -/
theorem step_stepOn {s t : State} (h : step s = .next t) : ∃ env, StepOn s env (nextEvent s).1 t := by
  obtain ⟨env, henv⟩ := nextEvent_state s
  exact ⟨env, step_next.mp h ▸ stepped_stepOn (Prod.ext rfl henv)⟩

/-- The step in which a word is presented to a block that is ready. -/
theorem step_command {s : State} {w : Nat} {rest : List Event} (hready : s.waiting = false)
    (hword : s.env.events = .command w :: rest) : step s =
      acceptWord w { s with env := { s.env with events := rest }, rsp := none, wrapClr := false } := by
  have hmove : nextEvent (endPulses s) = _ := nextEvent_listed (s := endPulses s) hword
  rw [step, if_neg (by simp [hready]), readyStep, hmove]
  rfl

theorem acceptWord_decoded {s : State} {w : Nat} {i : Instr} (hdecode : decode s.par.msW w = .ok i) :
    acceptWord w s = exec i s := by
  rw [acceptWord, hdecode]

/-! ### The checks of R77, in their order -/

/-- Check (1): after a fault a host command is answered `FAULT`, and a sub-operation does not run. -/
theorem after_faulted {s : State} (hfault : s.fault = true) (i : Instr) :
    after i s = if i.hostCommand then { s with rsp := some ⟨.fault, 0⟩ } else s := by
  have clockCommand (legal : Bool) (run : State → State) : runClockCommand legal run s = refuse .fault s := by
    simp [runClockCommand, hfault]
  cases i with
  | clkInit | btnUpdate | engUpdate | engAddtime | engDirective | dspUpdate =>
    rw [after, runCommand_faulted hfault, refuse_eq]
    rfl
  | clkWait | clkNow | fclkNow =>
    rw [after, clockCommand, refuse_eq]
    rfl
  | solidResync | blinkyUpdate | blinkyToggle | allUpdate =>
    rw [after, runSub_faulted hfault]
    rfl

/-- Check (2) comes after it: in the fault state the word is not looked at. -/
theorem acceptWord_faulted {s : State} (hfault : s.fault = true) (w : Nat) :
    acceptWord w s = .next { s with rsp := some ⟨.fault, 0⟩ } := by
  unfold acceptWord
  split
  · rename_i hdecode
    rw [exec_eq, after_faulted hfault, if_pos (decode_hostCommand hdecode)]
  · rw [runCommand_faulted hfault, refuse_eq]

/-- Check (3): a clock command of the variant that is not built. -/
theorem runClockCommand_illegal {s : State} {legal : Bool} (hfault : s.fault = false) (hlegal : legal = false)
    (run : State → State) : runClockCommand legal run s = { s with rsp := some ⟨.illegal, 0⟩ } := by
  rw [← refuse_eq]
  simp [runClockCommand, hfault, hlegal]

end Sys2Proof.Machine

open Sys2Proof Sys2Proof.Machine

/-- Settles O5: by `step_command`, and `acceptWord_undecoded`. -/
theorem illegalWordIsRefusedUnchanged : Obligations.IllegalWordIsRefusedUnchanged := by
  intro s w rest e hready hfault hword hdecode
  rw [step_command hready hword, acceptWord_undecoded (by exact hfault) (by exact hdecode)]

/-- Settles O6: by `step_command`, and `acceptWord_decoded`. -/
theorem stepRunsTheDecodedOperation : Obligations.StepRunsTheDecodedOperation := by
  intro s w rest i hready hword hdecode
  rw [step_command hready hword, acceptWord_decoded (by exact hdecode)]

/-- Settles O7: by `step_command`, and `acceptWord_faulted`. -/
theorem faultStateRefusesEveryWord : Obligations.FaultStateRefusesEveryWord := by
  intro s w rest hready hfault hword
  rw [step_command hready hword, acceptWord_faulted (by exact hfault)]

/-- Settles O8: by `after_faulted`. -/
theorem faultedOperationChangesNothing : Obligations.FaultedOperationChangesNothing := fun i _ hfault =>
  exec_next.mpr (after_faulted hfault i)

/-- Settles O9: check (3) of R77 comes before check (4), so whether there is a clock plays no part. -/
theorem otherVariantsNowIsIllegal : Obligations.OtherVariantsNowIsIllegal := fun _ hfault =>
  ⟨fun hfine => exec_next.mpr (runClockCommand_illegal hfault (by simp [hfine]) clkNowRun),
    fun hcoarse => exec_next.mpr (runClockCommand_illegal hfault (by simp [hcoarse]) fclkNowRun)⟩

/-- Settles O10: check (4) of R77, by `runClockCommand_noclock`. -/
theorem clockCommandsNeedAClock : Obligations.ClockCommandsNeedAClock := fun _ hfault hnoClock =>
  ⟨exec_next.mpr (runClockCommand_noclock hfault rfl hnoClock clkWaitRun),
    fun hcoarse => exec_next.mpr (runClockCommand_noclock hfault (decide_eq_true hcoarse) hnoClock clkNowRun),
    fun hfine => exec_next.mpr (runClockCommand_noclock hfault (decide_eq_true hfine) hnoClock fclkNowRun)⟩

/-- Settles O11: the next state is `stepped`. -/
theorem everyStepHasANextState : Obligations.EveryStepHasANextState := fun s => ⟨stepped s, step_eq s⟩

/-- Settles O16: the move is the word, and the poll that follows finds the flag clear. -/
theorem waitIgnoresPresentedWords : Obligations.WaitIgnoresPresentedWords := by
  intro s w rest hwait hclear hword
  have hmove := stepped_stepOn (nextEvent_listed hword)
  rw [step_eq]
  generalize stepped s = t at hmove
  cases hmove with
  | ignored => exact congrArg Host.Outcome.next (pollWait_clear hclear)
  | run _ _ hready => exact absurd (hwait.symm.trans hready) (by decide)
  | illegal _ _ hready => exact absurd (hwait.symm.trans hready) (by decide)

/-- Settles O48: after a fault no move but reset does more than move the environment's part or refuse a word. -/
theorem faultIsSticky : Obligations.FaultIsSticky := by
  intro s t hfault hready hstep hreset
  obtain ⟨env, hmove⟩ := step_stepOn hstep
  generalize nextEvent s = r at hmove hreset
  obtain ⟨e, u⟩ := r
  cases hmove with
  | reset => exact absurd rfl hreset
  | contact b v => rw [polled_ready] <;> simp [hready, hfault]
  | advance k => rw [polled_ready] <;> simp [hready, hfault]
  | ignored _ hwait => exact absurd (hwait.symm.trans hready) (by decide)
  | run w i _ hdecode =>
    rw [after_faulted (by exact hfault), if_pos (decode_hostCommand hdecode)]
    simp [hfault, hready]
  | illegal => rw [runCommand_faulted (by exact hfault)]; simp [hfault, hready]
end

section
/-! The proofs about which operations write which unit (10_state.md section 1, 20_memory.md section 3): the frames of
the operations, the mutators of each unit, and the principle by which an invariant of the buttons, the engine, the
display and the fault record is kept by every step. -/

namespace Sys2Proof.Machine

open Host

/-! ### The units beside the clock -/

/-- The configuration, the buttons, the engine, the display and the fault record are the same: nothing was written but
the clock unit, the port and the environment's part. -/
structure SameUnits (s t : State) : Prop where
  cfg : t.cfg = s.cfg
  btn0 : t.btn0 = s.btn0
  btn1 : t.btn1 = s.btn1
  eng : t.eng = s.eng
  dsp : t.dsp = s.dsp
  fault : t.fault = s.fault
  faultCause : t.faultCause = s.faultCause

/-- Whatever the clock unit, the port and the environment's part come to. -/
theorem SameUnits.of_update (s : State) (clk : Clk) (waiting : Bool) (rsp : Option Response) (wrapClr : Bool)
    (hwt : Hwt) (contacts : Contacts) (env : Env) : SameUnits s { s with
      clk := clk, waiting := waiting, rsp := rsp, wrapClr := wrapClr, hwt := hwt, contacts := contacts, env := env } :=
  ⟨rfl, rfl, rfl, rfl, rfl, rfl, rfl⟩

theorem SameUnits.trans {s t u : State} (h : SameUnits s t) (h' : SameUnits t u) : SameUnits s u :=
  ⟨h'.cfg.trans h.cfg, h'.btn0.trans h.btn0, h'.btn1.trans h.btn1, h'.eng.trans h.eng, h'.dsp.trans h.dsp,
    h'.fault.trans h.fault, h'.faultCause.trans h.faultCause⟩

theorem SameUnits.refl (s : State) : SameUnits s s := .of_update s ..

theorem refuse_sameUnits (st : Status) (s : State) : SameUnits s (refuse st s) := .of_update s ..

theorem setContact_sameUnits (b : BtnId) (v : Bool) (s : State) : SameUnits s (setContact b v s) := by
  cases b <;> exact .of_update s ..

theorem waitEnd_sameUnits (s : State) : SameUnits s (waitEnd s) := by
  cases hvariant : s.par.variant with
  | coarse => rw [waitEnd_coarse hvariant]; exact .of_update s ..
  | fine => rw [waitEnd_fine hvariant]; exact .of_update s ..

theorem pollWait_sameUnits (s : State) : SameUnits s (pollWait s) := by
  unfold pollWait
  split
  · exact waitEnd_sameUnits s
  · exact .refl s

theorem polled_sameUnits (s : State) : SameUnits s (polled s) := by
  unfold polled
  split
  · exact pollWait_sameUnits s
  · exact .refl s

/-- The operations of the clock unit, and the directive, which writes nothing. -/
theorem after_sameUnits {i : Instr} (hi : i = .clkInit ∨ i = .clkWait ∨ i = .clkNow ∨ i = .fclkNow ∨ i = .engDirective)
    (s : State) : SameUnits s (after i s) := by
  have hrefuse := fun st => refuse_sameUnits st s
  rcases hi with rfl | rfl | rfl | rfl | rfl
  · refine runCommand_keeps (hrefuse _) fun _ => ?_
    unfold clkInitRun
    split <;> exact .of_update s ..
  · refine runClockCommand_keeps hrefuse fun _ _ _ => ?_
    exact SameUnits.trans (.of_update s ..) (pollWait_sameUnits { s with waiting := true, rsp := none })
  · exact runClockCommand_keeps hrefuse fun _ _ _ => .of_update s ..
  · exact runClockCommand_keeps hrefuse fun _ _ _ => .of_update s ..
  · exact runCommand_keeps (hrefuse _) fun _ => .of_update s ..

/-! ### The clock, HWT and the environment -/

/-- The configuration, the clock unit, HWT, the contacts, the listed moves and a pulse `wrap_clr_o` are the same. -/
structure SameClock (s t : State) : Prop where
  cfg : t.cfg = s.cfg
  clk : t.clk = s.clk
  hwt : t.hwt = s.hwt
  wrapClr : t.wrapClr = s.wrapClr
  waiting : t.waiting = s.waiting
  contacts : t.contacts = s.contacts
  env : t.env = s.env

/-- Whatever the other units and the response come to. -/
theorem SameClock.of_update (s : State) (btn0 btn1 : Btn) (eng : Eng) (dsp : Dsp) (fault : Bool) (cause : BitVec 2)
    (rsp : Option Response) : SameClock s { s with
      btn0 := btn0, btn1 := btn1, eng := eng, dsp := dsp, fault := fault, faultCause := cause, rsp := rsp } :=
  ⟨rfl, rfl, rfl, rfl, rfl, rfl, rfl⟩

theorem engUpdateRun_sameClock (now : Nat) (s : State) : SameClock s (engUpdateRun now s) := by
  unfold engUpdateRun
  dsimp only
  split <;> rw [engineInputs_eq] <;> exact .of_update s ..

theorem dspUpdateRun_sameClock (n : BitVec 4) (kind : BlinkKind) (now : Nat) (s : State) :
    SameClock s (dspUpdateRun n kind now s) := by
  unfold dspUpdateRun
  split <;> exact .of_update s ..

/-- Every operation but three of the clock unit leaves the clock alone. -/
theorem after_sameClock {i : Instr} (hi : ¬(i = .clkInit ∨ i = .clkWait ∨ i = .fclkNow)) (s : State) :
    SameClock s (after i s) := by
  have hself : SameClock s s := .of_update s ..
  have hrefuse : ∀ st, SameClock s (refuse st s) := fun st => .of_update s ..
  unfold after
  cases i with
  | clkInit | clkWait | fclkNow => simp at hi
  | clkNow => exact runClockCommand_keeps hrefuse fun _ _ _ => .of_update s ..
  | btnUpdate b now => exact runCommand_keeps (hrefuse _) fun _ => by cases b <;> exact .of_update s ..
  | engUpdate now => exact runCommand_keeps (hrefuse _) fun _ => engUpdateRun_sameClock now s
  | engAddtime | engDirective => exact runCommand_keeps (hrefuse _) fun _ => .of_update s ..
  | dspUpdate n kind now => exact runCommand_keeps (hrefuse _) fun _ => dspUpdateRun_sameClock n kind now s
  | solidResync | blinkyUpdate | blinkyToggle | allUpdate => exact runSub_keeps hself fun _ => .of_update s ..

/-- What an operation leads to, where the clock is concerned: nothing new but by a construction, a wait or a double
read. -/
theorem after_keeps {P : State → Prop} {s : State} (hsame : ∀ t, SameClock s t → P t) (hinit : P (clkInitRun s))
    (hwait : s.fault = false → s.clk.clkValid = true → P (clkWaitRun s))
    (hread : s.par.variant = .fine → s.clk.clkValid = true → P (fclkNowRun s)) (i : Instr) : P (after i s) := by
  have hrefuse (st : Status) : P (refuse st s) := hsame _ (.of_update s ..)
  by_cases hi : i = .clkInit ∨ i = .clkWait ∨ i = .fclkNow
  · rcases hi with rfl | rfl | rfl
    · exact runCommand_keeps (hrefuse _) fun _ => hinit
    · exact runClockCommand_keeps hrefuse fun hfault _ hvalid => hwait hfault hvalid
    · exact runClockCommand_keeps hrefuse fun _ hlegal hvalid => hread (of_decide_eq_true hlegal) hvalid
  · exact hsame _ (after_sameClock hi s)

/-! ### What the other operations write -/

theorem after_btnUpdate_writes (b : BtnId) (now : Nat) (s : State) :
    ∃ B rsp, after (.btnUpdate b now) s = { s.setBtn b B with rsp := rsp } := by
  rcases s.fault.eq_false_or_eq_true with hfault | hfault
  · exact ⟨s.btn b, _, by rw [after_faulted hfault, setBtn_btn_self]; rfl⟩
  · exact ⟨_, _, runCommand_ready hfault _⟩

theorem after_engAddtime_writes (s : State) : ∃ eng rsp, after .engAddtime s = { s with eng := eng, rsp := rsp } := by
  rcases s.fault.eq_false_or_eq_true with hfault | hfault
  · exact ⟨s.eng, _, by rw [after_faulted hfault]; rfl⟩
  · exact ⟨_, _, by rw [after, runCommand_ready hfault]; rfl⟩

theorem after_dspUpdate_writes (n : BitVec 4) (kind : BlinkKind) (now : Nat) (s : State) :
    ∃ dsp fault cause rsp, after (.dspUpdate n kind now) s =
      { s with dsp := dsp, fault := fault, faultCause := cause, rsp := rsp } := by
  rcases s.fault.eq_false_or_eq_true with hfault | hfault
  · exact ⟨s.dsp, s.fault, s.faultCause, _, by rw [after_faulted hfault]; rfl⟩
  · rw [after, runCommand_ready hfault, dspUpdateRun]
    split <;> exact ⟨_, _, _, _, rfl⟩

/-- A sub-operation run by itself writes the display. -/
theorem after_sub_writes {i : Instr} (hi : i.hostCommand = false) (s : State) :
    ∃ dsp, after i s = { s with dsp := dsp } := by
  rcases s.fault.eq_false_or_eq_true with hfault | hfault
  · exact ⟨s.dsp, by rw [after_faulted hfault, if_neg (by simp [hi])]⟩
  · cases i with
    | solidResync | blinkyUpdate | blinkyToggle | allUpdate => exact ⟨_, by rw [after, runSub_ready hfault]⟩
    | _ => cases hi

/-- The contacts and the listed moves are the same. -/
def SameMoves (s t : State) : Prop := t.contacts = s.contacts ∧ t.env.events = s.env.events

theorem clkWaitRun_sameMoves (s : State) : SameMoves s (clkWaitRun s) := by
  obtain ⟨k, env, hgap, hevents, -⟩ := hwtGap_eq { s with waiting := true, rsp := none }
  unfold clkWaitRun pollWait
  split
  · cases hvariant : s.par.variant with
    | coarse =>
      rw [waitEnd_coarse (by exact hvariant), coarseTick_eq, hgap]
      exact ⟨rfl, hevents⟩
    | fine =>
      rw [waitEnd_fine (by exact hvariant)]
      exact ⟨rfl, rfl⟩
  · exact ⟨rfl, rfl⟩

/-- No operation changes a contact, or the moves the environment has listed. -/
theorem after_sameMoves (i : Instr) (s : State) : SameMoves s (after i s) := by
  refine after_keeps (fun t h => ⟨h.contacts, congrArg Env.events h.env⟩) ?_ (fun _ _ => clkWaitRun_sameMoves s) ?_ i
  · unfold clkInitRun
    split <;> exact ⟨rfl, rfl⟩
  · intro _ _
    obtain ⟨k1, k2, env, hread, hevents, -⟩ := fclkNowRun_eq s
    rw [hread]
    exact ⟨rfl, hevents⟩

end Sys2Proof.Machine

open Sys2Proof Sys2Proof.Machine

/-- Settles O46: the clock clauses are `after_sameClock`, and the units an operation writes are read off its frame. -/
theorem eachUnitHasItsMutators : Obligations.EachUnitHasItsMutators := by
  intro i s t h
  obtain rfl := exec_next.mp h
  have hclock := fun hi => after_sameClock (i := i) hi s
  have hunits := fun hi => after_sameUnits (i := i) hi s
  have hsub := fun hi => after_sub_writes (i := i) hi s
  refine ⟨fun hne => by_contra fun hi => hne (hclock hi).clk, fun hne => by_contra fun hi => hne (hclock hi).hwt,
    fun hne => by_contra fun hi => hne (hclock hi).wrapClr, ?_⟩
  obtain ⟨hcontacts, hevents⟩ := after_sameMoves i s
  simp only [hcontacts, hevents]
  cases i with
  | clkInit | clkWait | clkNow | fclkNow | engDirective =>
    have h := hunits (by simp)
    simp [h.btn0, h.btn1, h.eng, h.dsp, h.fault, h.cfg]
  | btnUpdate b now =>
    obtain ⟨B, rsp, h⟩ := after_btnUpdate_writes b now s
    rw [h]
    cases b <;> simp
  | engUpdate now => simp [(hclock (by simp)).cfg]
  | engAddtime =>
    obtain ⟨eng, rsp, h⟩ := after_engAddtime_writes s
    simp [h]
  | dspUpdate n kind now =>
    obtain ⟨dsp, fault, cause, rsp, h⟩ := after_dspUpdate_writes n kind now s
    simp [h]
  | solidResync | blinkyUpdate | blinkyToggle | allUpdate =>
    obtain ⟨dsp, h⟩ := hsub rfl
    rw [h]
    simp [Instr.hostCommand]

/-- Settles O47: of the moves of a step only reset and an accepted word write the display, and of the operations that a
word names only the two (`eachUnitHasItsMutators`), outside the fault state. -/
theorem ledsChangeOnlyInFramesOrReset : Obligations.LedsChangeOnlyInFramesOrReset := by
  intro s t hstep hled
  have keeps {u : State} (h : SameUnits s u) (hu : u = t) : False := hled (by rw [← hu, State.ledO, h.dsp]; rfl)
  obtain ⟨env, hmove⟩ := step_stepOn hstep
  generalize (nextEvent s).1 = e at hmove
  have hquiet : SameUnits s { endPulses s with env := env } := .of_update s ..
  cases hmove with
  | reset => exact .inl rfl
  | contact b v => exact (keeps ((hquiet.trans (setContact_sameUnits b v _)).trans (polled_sameUnits _)) rfl).elim
  | advance k => exact (keeps (SameUnits.trans (.of_update s ..) (polled_sameUnits _)) rfl).elim
  | ignored w => exact (keeps (hquiet.trans (pollWait_sameUnits _)) rfl).elim
  | illegal w r =>
    exact (keeps (hquiet.trans (runCommand_keeps (refuse_sameUnits _ _) fun _ => refuse_sameUnits _ _)) rfl).elim
  | run w i hready hdecode =>
    have hfault : s.fault = false := by
      by_contra hfault
      rw [after_faulted (by simpa using hfault)] at hled
      exact hled (by split <;> rfl)
    have hdsp : (after i { endPulses s with env := env }).dsp ≠ s.dsp := fun h => hled (congrArg Dsp.led h)
    obtain ⟨-, -, -, -, -, -, hwrites, -⟩ := eachUnitHasItsMutators i _ _ (exec_eq i { endPulses s with env := env })
    refine .inr ⟨w, rfl, hready, hfault, ?_⟩
    rcases hwrites hdsp with ⟨now, rfl⟩ | ⟨n, kind, now, rfl⟩ | hsub
    · exact .inl ⟨now, hdecode⟩
    · exact .inr ⟨n, kind, now, hdecode⟩
    · exact absurd (hsub.symm.trans (decode_hostCommand hdecode)) (by decide)

/-- Settles O50: the configuration is no unit of the block; no move and no operation writes it. -/
theorem configurationIsConstant : Obligations.ConfigurationIsConstant := by
  intro s t hstep
  refine step_keeps (P := fun u => u.cfg = s.cfg) (fun _ _ h => h) (fun _ b v h => (setContact_cfg b v _).trans h)
    (fun _ _ h => h) (fun _ h => h) (fun _ _ h => (pollWait_cfg _).trans h)
    (fun u _ h => runCommand_keeps (P := fun v => v.cfg = s.cfg) h fun _ => h) (fun u i _ _ _ h => ?_) rfl hstep
  obtain ⟨-, -, -, -, -, -, -, -, hcfg, -⟩ := eachUnitHasItsMutators i u _ (exec_eq i u)
  exact hcfg.trans h
end

section
/-! The proofs about the render directive and the whole engine update (42_engine.md R141, R144 to R150). -/

namespace Sys2Proof.Machine

open Host

/-! ### Pressing add-time again and again (R144) -/

/-- A list of operations that runs to its end goes on with the list after it. -/
theorem execMany_append {is : List Instr} {s t : State} (h : execMany is s = .next t) (js : List Instr) :
    execMany (is ++ js) s = execMany js t := by
  induction is generalizing s with
  | nil => cases h; rfl
  | cons i is ih =>
    rw [execMany, exec_eq] at h
    rw [List.cons_append, execMany, exec_eq]
    exact ih h

/-- One more press: the budget of the state the others have reached. -/
theorem execMany_addtime_succ {k : Nat} {s t : State} (hfault : t.fault = false)
    (h : execMany (List.replicate k .engAddtime) s = .next t) :
    execMany (List.replicate (k + 1) .engAddtime) s = .next { t with
      eng := { t.eng with remaining := addTime t.par.segPeriod t.eng.remaining }, rsp := some ⟨.ok, 0⟩ } := by
  rw [List.replicate_succ', execMany_append h, execMany, exec_engAddtime hfault]
  rfl

/-- Up to eight presses each add a segment to an empty budget. -/
theorem execMany_addtime {s : State} (hfault : s.fault = false) (hempty : s.eng.remaining = 0) {k : Nat} (hk : k ≤ 8) :
    ∃ rsp, execMany (List.replicate k .engAddtime) s = .next { s with
      eng := { s.eng with remaining := k * s.par.segPeriod }, rsp := rsp } := by
  induction k with
  | zero =>
    have hsame : { s with eng := { s.eng with remaining := 0 * s.par.segPeriod }, rsp := s.rsp } = s := by
      rw [Nat.zero_mul, ← hempty]
    exact ⟨s.rsp, congrArg Outcome.next hsame.symm⟩
  | succ k ih =>
    obtain ⟨rsp, h⟩ := ih (Nat.le_of_succ_le hk)
    have hseg := s.cfg.valid.seg_pos
    have hpart : k * s.par.segPeriod < 8 * s.par.segPeriod := Nat.mul_lt_mul_of_pos_right hk hseg
    have hfits : (k + 1) * s.par.segPeriod ≤ 8 * s.par.segPeriod := Nat.mul_le_mul_right _ hk
    refine ⟨some ⟨.ok, 0⟩, (execMany_addtime_succ (by exact hfault) h).trans ?_⟩
    simp only
    rw [addTime_part hpart, ← Nat.succ_mul, Nat.min_eq_left hfits]

/-! ### The directive (R146) -/

section
variable {seg r : Nat}

theorem directiveOf_paused_boundary (hm : r % seg = 0) :
    directiveOf seg false r = ⟨BitVec.ofNat 4 (r / seg), .none⟩ := by simp [directiveOf, hm]

theorem directiveOf_running_empty : directiveOf seg true 0 = ⟨0, .all⟩ := by simp [directiveOf]

theorem directiveOf_running_boundary (hm : r % seg = 0) (hr : r ≠ 0) :
    directiveOf seg true r = ⟨BitVec.ofNat 4 (r / seg - 1), .slow⟩ := by simp [directiveOf, hm, hr]

theorem directiveOf_paused_within (hm : r % seg ≠ 0) :
    directiveOf seg false r = ⟨BitVec.ofNat 4 (r / seg + 1), .none⟩ := by simp [directiveOf, hm]

theorem directiveOf_running_last (hm : r % seg ≠ 0) (hlast : r % seg ≤ seg / 3) :
    directiveOf seg true r = ⟨BitVec.ofNat 4 (r / seg), .fast⟩ := by simp [directiveOf, hm, hlast]

theorem directiveOf_running_within (hm : r % seg ≠ 0) (hfirst : seg / 3 < r % seg) :
    directiveOf seg true r = ⟨BitVec.ofNat 4 (r / seg), .slow⟩ := by simp [directiveOf, hm, Nat.not_le.mpr hfirst]

end


/-- `ENG.DIRECTIVE` answers the directive's code and writes nothing. -/
theorem exec_engDirective {s : State} (hfault : s.fault = false) :
    exec .engDirective s = .next { s with rsp := some ⟨.ok, s.directive.code % 2 ^ s.par.msW⟩ } := by
  rw [exec_next, after, runCommand_ready hfault, respond_eq]

/-! ### The directive on the ring (R150) -/

/-- Under the budget invariant the LEDs lit or blinking fit the ring. -/
theorem directive_lit_le {s : State} (hinv : EngineInv s) : s.directive.lit ≤ 8 := by
  have hseg := s.cfg.valid.seg_pos
  have hbudget : s.eng.remaining ≤ 8 * s.par.segPeriod := hinv
  rw [directive_lit hinv, ← ceil_segments hseg]
  refine Nat.le_of_lt_succ ((Nat.div_lt_iff_lt_mul hseg).mpr ?_)
  simp only [State.par] at hbudget hseg ⊢
  omega

/-- A directive under the budget invariant makes a legal frame. -/
theorem frame_directive_ok {s : State} (hinv : EngineInv s) (now : Nat) (d : Dsp) :
    ∃ d', frame s.par s.directive.n s.directive.kind now d = .ok d' := by
  have hlit := directive_lit_le hinv
  unfold Directive.lit at hlit
  rcases frame_cases s.par s.directive.n s.directive.kind now d with
    ⟨hn, -⟩ | ⟨hn, hblink, -⟩ | ⟨-, -, h⟩ | ⟨-, -, -, h⟩
  · omega
  · rw [if_pos (isBlink_iff.mp hblink)] at hlit
    omega
  · exact ⟨_, h⟩
  · exact ⟨_, h⟩

/-! ### The inputs of an update (R141) -/

theorem engineInputs_engineInv {s : State} (hinv : EngineInv s) (now : Nat) : EngineInv (engineInputs now s) := by
  have h := engineInputs_remaining_le hinv now
  rw [engineInputs_eq] at h ⊢
  exact h

end Sys2Proof.Machine

open Sys2Proof Sys2Proof.Machine

/-- Settles O29: `execMany_addtime`; the ninth press finds a full budget. -/
theorem ninthAddTimeWrapsToOneSegment : Obligations.NinthAddTimeWrapsToOneSegment := by
  intro s hfault hempty
  refine ⟨fun k hk => ?_, ?_⟩
  · obtain ⟨rsp, h⟩ := execMany_addtime hfault hempty hk
    exact ⟨_, h, rfl⟩
  · obtain ⟨rsp, h⟩ := execMany_addtime hfault hempty (Nat.le_refl 8)
    refine ⟨_, execMany_addtime_succ (by exact hfault) h, ?_⟩
    simp only
    rw [addTime_full (Nat.le_refl _)]

/-- Settles O31: the count, and one more when an LED blinks, are at most the eight LEDs (`directive_lit_le`). -/
theorem directiveStaysOnTheRing : Obligations.DirectiveStaysOnTheRing := by
  intro s hinv
  have hlit := directive_lit_le hinv
  unfold Directive.lit at hlit
  refine ⟨by omega, fun hblink => ?_⟩
  rw [if_pos hblink] at hlit
  omega

/-- Settles O30: the six cases of `directiveOf`, whose count fits its four bits because at most eight segments are
whole. -/
theorem directiveCases : Obligations.DirectiveCases := by
  intro s hfault hinv r seg
  have hring : r / seg ≤ 8 := Nat.div_le_of_le_mul (Nat.le_trans hinv (Nat.mul_comm ..).le)
  have hcount {n : Nat} (hn : n < 16) : (BitVec.ofNat 4 n).toNat = n := BitVec.toNat_ofNat n 4 ▸ Nat.mod_eq_of_lt hn
  have hdir : s.directive = directiveOf seg s.eng.running r := rfl
  refine ⟨decode_packWord_noOperands (by decide) s.par.msW, s.directive.n.toNat, s.directive.kind.code,
    exec_engDirective hfault, ?_⟩
  rw [hdir]
  refine ⟨fun hm hrun => ?_, fun h0 hrun => ?_, fun hm h0 hrun => ?_, fun hm hrun => ?_, fun hm hrun hlast => ?_,
    fun hm hrun hfirst => ?_⟩ <;> rw [hrun]
  · rw [directiveOf_paused_boundary hm]
    exact ⟨hcount (by omega), rfl⟩
  · rw [h0, directiveOf_running_empty]
    exact ⟨rfl, rfl⟩
  · have hwhole : 1 ≤ r / seg := Nat.div_pos (Nat.le_of_dvd h0 (Nat.dvd_of_mod_eq_zero hm)) s.cfg.valid.seg_pos
    rw [directiveOf_running_boundary hm (Nat.ne_of_gt h0)]
    exact ⟨by rw [hcount (by omega), Nat.sub_add_cancel hwhole], rfl⟩
  · rw [directiveOf_paused_within hm]
    exact ⟨hcount (by omega), rfl⟩
  · rw [directiveOf_running_last hm hlast]
    exact ⟨hcount (by omega), rfl⟩
  · rw [directiveOf_running_within hm hfirst]
    exact ⟨hcount (by omega), rfl⟩

/-- Settles O33: each button is evaluated as by its own command (`exec_btnUpdate`), `engineInputs_eq` gives the engine,
and the frame of the directive is legal (`frame_directive_ok`), on the display that the inputs have left alone. -/
theorem engineUpdateIsItsSubOperations : Obligations.EngineUpdateIsItsSubOperations := by
  intro s now hfault hinv
  obtain ⟨d, hframe⟩ := frame_directive_ok (engineInputs_engineInv hinv now) now (engineInputs now s).dsp
  have hexec0 := exec_btnUpdate (now := now) (b := .b0) hfault rfl
  have hexec1 := exec_btnUpdate (now := now) (b := .b1) hfault rfl
  have hpush0 := btnUpdate_answers_push hfault hexec0
  have hpush1 := btnUpdate_answers_push hfault hexec1
  refine ⟨_, _, _, { s with dsp := d, rsp := some ⟨.ok, 0⟩ }, exec_engUpdate hfault hframe, hexec0, hexec1,
    ?_, ?_, ?_, rfl, exec_dspUpdate hfault ?_, hfault⟩
  · rw [engineInputs_eq]
    rfl
  · rw [engineInputs_eq]
    unfold State.answers at hpush0
    simp only [hpush0]
  · rw [engineInputs_eq]
    unfold State.answers at hpush1
    simp only [hpush1]
    rfl
  · rw [engineInputs_eq] at hframe ⊢
    exact hframe
end

section
/-! The proofs about one frame of the display (43_display.md): its faults (R161, R204), the LEDs when the solid renderer
ran (R163 to R165, R173), the start of a blink (R170), a frame with nothing new, and the frame `All` (R171). -/

namespace Sys2Proof.Machine

open Host

/-- A frame that faults: the fault record and the status, before any write. -/
theorem exec_dspUpdate_error {s : State} {n : BitVec 4} {kind : BlinkKind} {now : Nat} {c : FaultCause}
    (hfault : s.fault = false) (hframe : frame s.par n kind now s.dsp = .error c) :
    exec (.dspUpdate n kind now) s =
      .next { s with fault := true, faultCause := c.code, rsp := some ⟨.fault, 0⟩ } := by
  rw [exec_next, after, runCommand_ready hfault]
  simp only [dspUpdateRun, hframe, respond_eq, Nat.zero_mod, raiseFatal]

/-- The kinds of a frame that is not `All` and has a blinking LED. -/
theorem isBlink_of_ne {kind : BlinkKind} (hall : kind ≠ .all) (hnone : kind ≠ .none) : isBlink kind = true := by
  cases kind <;> simp_all [isBlink]

/-- The index of a frame's blinking LED is the one that blinks already, where that is the one at the count. -/
theorem blinkIndexOf_same {n : BitVec 4} {kind : BlinkKind} {i : BitVec 3} (hblink : isBlink kind = true)
    (hn : n.toNat ≤ 7) (hi : i.toNat = n.toNat) : blinkIndexOf n kind = some i := by
  rw [blinkIndexOf_blink hblink]
  exact congrArg some (BitVec.eq_of_toNat_eq ((setWidth_toNat hn).trans hi.symm))

/-! ### After a resync -/

/-- The display after the solid renderer ran in a frame that is not `All`. -/
def resynced (n : BitVec 4) (d : Dsp) : Dsp := { resync n d with wasAll := false }

theorem frameNotAll_due {n : BitVec 4} {d : Dsp} (hdue : n ≠ d.numOn ∨ d.wasAll = true) (p : Params) (kind : BlinkKind)
    (now : Nat) : frameNotAll p n kind now d =
      blinky p (blinkIndexOf n kind) (decide (kind = .fast)) now (resynced n d) := by
  rw [frameNotAll_eq, resyncIfDue, if_pos hdue]
  rfl

/-- The LEDs that Blinky then finds are solid below the count. -/
theorem resynced_led (n : BitVec 4) (d : Dsp) {i : Nat} (hi : i < 8) :
    (resynced n d).led.getLsbD i = decide (i < n.toNat) := resync_led n d hi

section
variable {n : BitVec 4} {d : Dsp} {i : Nat} (hi : i < 8)

include hi

theorem resynced_stop_led : (blinkStop (resynced n d)).led.getLsbD i =
    decide (i < n.toNat ∧ i ≠ d.blIdx.toNat) := by
  have hidx : (resynced n d).blIdx = d.blIdx := rfl
  rw [blinkStop_led, resynced_led n d hi, hidx]
  split <;> simp [*]

theorem resynced_start_led (hn : n.toNat ≤ 7) (p : Params) (isFast : Bool) (now : Nat) :
    (blinkStart p (n.setWidth 3) isFast now (resynced n d)).led.getLsbD i = decide (i ≤ n.toNat) := by
  rw [blinkStart, toggle_led]
  simp only [setWidth_toNat hn, resynced_led n d hi]
  split
  · simp [*]
  · rw [decide_eq_decide]
    omega

theorem resynced_toggle_led (hidx : d.blIdx.toNat = n.toNat) (p : Params) (isFast : Bool) :
    (toggle p isFast (resynced n d)).led.getLsbD i = decide (i ≤ n.toNat) := by
  have hsame : (resynced n d).blIdx.toNat = n.toNat := hidx
  rw [toggle_led, hsame, resynced_led n d hi]
  split
  · simp [*]
  · rw [decide_eq_decide]
    omega

end

/-! ### Without a resync, and at the start of a blink -/

theorem frameNotAll_same {d : Dsp} (hall : d.wasAll = false) (p : Params) (kind : BlinkKind) (now : Nat) :
    frameNotAll p d.numOn kind now d = blinky p (blinkIndexOf d.numOn kind) (decide (kind = .fast)) now d := by
  have hsame : { d with wasAll := false } = d := by rw [← hall]
  rw [frameNotAll_eq, resyncIfDue, if_neg (by simp [hall]), hsame]

/-- Where nothing blinks, the LED at the count is off after the solid renderer's part of a frame. -/
theorem resyncIfDue_dark {s : State} {n : BitVec 4} (hinv : DisplayInv s) (hn : n.toNat ≤ 7)
    (hvalid : s.dsp.blValid = false) : (resyncIfDue n s.dsp).led.getLsbD n.toNat = false := by
  have hi : n.toNat < 8 := by omega
  unfold resyncIfDue
  split
  · rw [resync_led n s.dsp hi]
    simp
  · rename_i hdue
    obtain ⟨hnum, hall⟩ := not_or.mp hdue
    have hcount : n = s.dsp.numOn := not_not.mp hnum
    exact hinv.above_off (by simpa using hall) n.toNat hi (by rw [hcount]) (by simp [hvalid])

theorem resyncIfDue_blValid (n : BitVec 4) (d : Dsp) : (resyncIfDue n d).blValid = d.blValid := by
  unfold resyncIfDue
  split <;> rfl

end Sys2Proof.Machine

open Sys2Proof Sys2Proof.Machine

/-- Settles O36: the two errors of `frame`, by `exec_dspUpdate_error`. -/
theorem frameRangeChecksFault : Obligations.FrameRangeChecksFault := fun _ _ _ _ hfault =>
  ⟨fun hn => exec_dspUpdate_error hfault (frame_solidRange hn _ _ _ _),
    fun hn hkind => exec_dspUpdate_error hfault (frame_blinkIndex hn (isBlink_iff.mpr hkind) _ _ _)⟩

/-- Settles O38: Blinky runs on the ring that is solid below the count (`frameNotAll_due`), and each clause is one of
its cases. -/
theorem resyncFrameLeds : Obligations.ResyncFrameLeds := by
  intro s n kind now hfault hall hn hblink hdue
  have hseven (hnone : kind ≠ .none) : n.toNat ≤ 7 := hblink (isBlink_iff.mp (isBlink_of_ne hall hnone))
  have hframe := frame_notAll hn hall (fun hb h8 => by have := hblink (isBlink_iff.mp hb); omega) s.par now s.dsp
  rw [frameNotAll_due hdue] at hframe
  refine ⟨_, exec_dspUpdate hfault hframe, fun i hi => ⟨fun hnone hvalid => ?_, fun hnone hvalid => ?_,
    fun hnone hvalid => ?_, fun hnone hvalid hidx => ?_, fun hnone hvalid hidx => ?_⟩⟩
  · rw [hnone, blinkIndexOf_noBlink rfl, blinky_none_none (d := resynced n s.dsp) hvalid, resynced_led n s.dsp hi]
  · rw [hnone, blinkIndexOf_noBlink rfl, blinky_some_none (d := resynced n s.dsp) hvalid, resynced_stop_led hi]
  · rw [blinkIndexOf_blink (isBlink_of_ne hall hnone), blinky_none_some (d := resynced n s.dsp) hvalid,
      resynced_start_led hi (hseven hnone)]
  · rw [blinkIndexOf_same (i := (resynced n s.dsp).blIdx) (isBlink_of_ne hall hnone) (hseven hnone) hidx]
    by_cases hreached : s.dsp.blNext ≤ now
    · rw [blinky_due (d := resynced n s.dsp) hvalid hreached, resynced_toggle_led hi hidx, decide_eq_decide]
      omega
    · rw [blinky_early (d := resynced n s.dsp) hvalid (Nat.not_le.mp hreached), resynced_led n s.dsp hi,
        decide_eq_decide]
      omega
  · have hmove : (resynced n s.dsp).blIdx ≠ n.setWidth 3 := fun h =>
      hidx ((congrArg BitVec.toNat h).trans (setWidth_toNat (hseven hnone)))
    rw [blinkIndexOf_blink (isBlink_of_ne hall hnone), blinky_move (d := resynced n s.dsp) hvalid hmove]
    exact resynced_led n s.dsp hi

/-- Settles O39: no resync is due, and Blinky is in one of its two cases that write nothing. -/
theorem repeatedFrameWritesNothing : Obligations.RepeatedFrameWritesNothing := by
  intro s n kind now hfault hall hn hcount hmode hcase
  subst hcount
  have hframe : frame s.par s.dsp.numOn kind now s.dsp = .ok s.dsp := by
    rcases hcase with ⟨rfl, hvalid⟩ | ⟨hkind, hvalid, hidx, hearly⟩
    · rw [frame_notAll hn hall (by simp [isBlink]), frameNotAll_same hmode, blinkIndexOf_noBlink rfl,
        blinky_none_none hvalid]
    · have hseven : s.dsp.numOn.toNat ≤ 7 := hidx ▸ Nat.le_of_lt_succ s.dsp.blIdx.isLt
      rw [frame_notAll hn hall (fun _ h8 => by omega), frameNotAll_same hmode,
        blinkIndexOf_same (isBlink_iff.mpr hkind) hseven hidx, blinky_early hvalid hearly]
  exact exec_dspUpdate hfault hframe

/-- Settles O40: Blinky's start assumes the phase on and toggles at once, on an LED that is off (`resyncIfDue_dark`). -/
theorem blinkStartsLitWithPhaseOff : Obligations.BlinkStartsLitWithPhaseOff := by
  intro s n kind now hfault hinv hkind hn hvalid
  have hblink := isBlink_iff.mpr hkind
  have hall : kind ≠ .all := by rintro rfl; simp at hkind
  have hframe := frame_notAll (n := n) (by omega) hall (by omega) s.par now s.dsp
  rw [frameNotAll_eq, blinkIndexOf_blink hblink,
    blinky_none_some (d := { resyncIfDue n s.dsp with wasAll := false })
      ((resyncIfDue_blValid n s.dsp).trans hvalid)] at hframe
  refine ⟨_, exec_dspUpdate hfault hframe, ?_, rfl, ?_⟩
  · rw [blinkStart, toggle_led, setWidth_toNat hn, if_pos rfl]
    exact congrArg not (resyncIfDue_dark hinv hn hvalid)
  · rcases hkind with rfl | rfl <;> rfl

/-- Settles O45: `frame_all` and `exec_allUpdate` give the same display. -/
theorem allFrameRunsAllUpdate : Obligations.AllFrameRunsAllUpdate := fun _ _ now hfault hn =>
  ⟨_, _, exec_dspUpdate hfault (frame_all hn _ _ _), exec_allUpdate hfault now, rfl⟩
end

section
/-! The proofs about the invariants of the state (10_state.md R39): each holds at reset, and every step keeps it. -/

namespace Sys2Proof.Machine

open Host

/-! ### Invariants of the buttons, the engine, the display and the fault record -/

/-- Such an invariant says nothing of the clock unit, the port and the environment's part, and holds at reset. It is
kept by each thing the block does to its other units: one evaluation of a button, the three changes of the engine, a
frame, and a fault. The time operand of a command is an `Ms` value. -/
structure UnitsKeep (P : State → Prop) : Prop where
  sameUnits : ∀ {s t}, SameUnits s t → P s → P t
  reset : ∀ s, P (resetBlock s)
  button : ∀ {s} b now, P s → P (s.setBtn b (buttonResult b now s).2)
  decay : ∀ {s} now, P s → P (decay now s)
  toggleRunning : ∀ {s}, P s → P (toggleRunning s)
  addTime : ∀ {s}, P s → P (engAddTime s)
  lastUpdate : ∀ {s : State} {now}, now < 2 ^ s.par.msW → P s → P { s with eng := { s.eng with lastUpdate := now } }
  frame : ∀ {s : State} {n kind now d}, now < 2 ^ s.par.msW → frame s.par n kind now s.dsp = .ok d →
    P s → P { s with dsp := d }
  fault : ∀ {s} c, P s → P (raiseFatal c s)

namespace UnitsKeep

variable {P : State → Prop} (h : UnitsKeep P)

include h

theorem respond (st : Status) (data : Nat) {s : State} (hs : P s) : P (respond st data s) :=
  h.sameUnits (.of_update s ..) hs

theorem applyEdges (e0 e1 : ButtonEvent) {s : State} (hs : P s) : P (applyEdges e0 e1 s) := by
  have htoggle : P (if e0 = .push then Machine.toggleRunning s else s) := by
    split
    · exact h.toggleRunning hs
    · exact hs
  unfold Machine.applyEdges
  dsimp only
  split
  · exact h.addTime htoggle
  · exact htoggle

theorem engineInputs (now : Nat) {s : State} (hs : P s) : P (engineInputs now s) :=
  h.applyEdges _ _ (h.button .b1 now (h.button .b0 now (h.decay now hs)))

theorem dspUpdateRun (n : BitVec 4) (kind : BlinkKind) {now : Nat} {s : State} (hnow : now < 2 ^ s.par.msW) (hs : P s) :
    P (dspUpdateRun n kind now s) := by
  unfold Machine.dspUpdateRun
  split
  · exact h.respond _ _ (h.frame hnow ‹_› hs)
  · exact h.respond _ _ (h.fault _ hs)

theorem engUpdateRun {now : Nat} {s : State} (hnow : now < 2 ^ s.par.msW) (hs : P s) : P (engUpdateRun now s) := by
  have hinputs := h.engineInputs now hs
  have hnow' : now < 2 ^ (Machine.engineInputs now s).par.msW := by rw [engineInputs_eq]; exact hnow
  unfold Machine.engUpdateRun
  dsimp only
  split
  · rename_i d hframe
    exact h.respond _ _ (h.lastUpdate (s := { Machine.engineInputs now s with dsp := d }) hnow'
      (h.frame hnow' hframe hinputs))
  · exact h.respond _ _ (h.fault _ hinputs)

/-- A decoded operation keeps it. -/
theorem after {i : Instr} {w : Nat} {s : State} (hdecode : decode s.par.msW w = .ok i) (hs : P s) : P (after i s) := by
  have hnow {now : Nat} (htime : i.time = some now) : now < 2 ^ s.par.msW := decode_time_lt hdecode htime
  have hrefuse : P (refuse .fault s) := h.respond _ _ hs
  have hhost := decode_hostCommand hdecode
  have hunits := fun hi => h.sameUnits (after_sameUnits (i := i) hi s) hs
  cases i with
  | clkInit | clkWait | clkNow | fclkNow | engDirective => exact hunits (by simp)
  | btnUpdate b now => exact runCommand_keeps hrefuse fun _ => h.respond _ _ (h.button b now hs)
  | engUpdate now => exact runCommand_keeps hrefuse fun _ => h.engUpdateRun (hnow rfl) hs
  | engAddtime =>
    exact runCommand_keeps (run := fun s => Machine.respond .ok 0 (engAddTime s)) hrefuse fun _ =>
      h.respond _ _ (h.addTime hs)
  | dspUpdate n kind now => exact runCommand_keeps hrefuse fun _ => h.dspUpdateRun n kind (hnow rfl) hs
  | solidResync | blinkyUpdate | blinkyToggle | allUpdate => cases hhost

/-- Every step keeps it. -/
theorem step {s t : State} (hs : P s) (hstep : step s = .next t) : P t :=
  step_keeps (P := P) (fun _ _ => h.sameUnits (.of_update ..)) (fun _ b v => h.sameUnits (setContact_sameUnits b v _))
    (fun _ _ => h.sameUnits (.of_update ..)) (fun _ _ => h.reset _) (fun _ _ => h.sameUnits (pollWait_sameUnits _))
    (fun _ _ hu => runCommand_keeps (h.respond _ _ hu) fun _ => h.respond _ _ hu)
    (fun _ _ _ _ hdecode hu => h.after hdecode hu) hs hstep

end UnitsKeep

/-- The all-ring blink, said once (43_display.md R171). -/
theorem allUpdate_cases (p : Params) (now : Nat) (d : Dsp) :
    (d.wasAll = true ∧ allUpdate p now d = d) ∨ (d.wasAll = true ∧ allUpdate p now d = allToggle p d) ∨
    (d.wasAll = false ∧ allUpdate p now d = allToggle p (allEnter now d)) := by
  rcases d.wasAll.eq_false_or_eq_true with hall | hall
  · by_cases hdue : d.allNext ≤ now
    · exact .inr (.inl ⟨hall, allUpdate_due hall hdue p⟩)
    · exact .inl ⟨hall, allUpdate_early hall (Nat.not_le.mp hdue) p⟩
  · exact .inr (.inr ⟨hall, allUpdate_enter hall now p⟩)

/-! ### The budget (R27, R150) and the fault record (R38) -/

theorem engineInv_keeps : UnitsKeep EngineInv where
  sameUnits h hs := by unfold EngineInv State.par; rw [h.eng, h.cfg]; exact hs
  reset _ := Nat.zero_le _
  button b now hs := by unfold EngineInv State.par; rw [setBtn_eng, setBtn_cfg]; exact hs
  decay {s} now hs := by rw [decay_eq]; exact Nat.le_trans (decayed_le now s) hs
  toggleRunning hs := hs
  addTime {s} _ := addTime_le s.par.segPeriod s.eng.remaining
  lastUpdate _ hs := hs
  frame _ _ hs := hs
  fault _ hs := hs

theorem faultInv_keeps : UnitsKeep FaultInv where
  sameUnits h hs := ⟨by rw [h.fault, h.faultCause]; exact hs.quiet, by rw [h.fault, h.faultCause]; exact hs.raised⟩
  reset _ := ⟨fun _ => rfl, fun h => by cases h⟩
  button b now hs := by
    refine ⟨?_, ?_⟩ <;> rw [setBtn_fault, setBtn_faultCause]
    exacts [hs.quiet, hs.raised]
  decay now hs := by rw [decay_eq]; exact ⟨hs.quiet, hs.raised⟩
  toggleRunning hs := ⟨hs.quiet, hs.raised⟩
  addTime hs := ⟨hs.quiet, hs.raised⟩
  lastUpdate _ hs := ⟨hs.quiet, hs.raised⟩
  frame _ _ hs := ⟨hs.quiet, hs.raised⟩
  fault c _ := by
    refine ⟨fun h => (by cases h), fun _ => ?_⟩
    cases c
    · exact .inl rfl
    · exact .inr rfl

/-! ### The buttons without a window (R123) -/

theorem buttonInv_keeps : UnitsKeep ButtonInv where
  sameUnits h hs b hzero := by
    have hbtn := hs b (by simpa only [State.par, h.cfg] using hzero)
    cases b
    · rw [btn_b0, h.btn0]; exact hbtn
    · rw [btn_b1, h.btn1]; exact hbtn
  reset s b _ := by cases b <;> rfl
  button {s} b now hs c hzero := by
    simp only [State.par, setBtn_cfg] at hzero
    by_cases hc : c = b
    · subst hc
      rw [setBtn_btn_same, buttonResult, hzero]
      exact buttonEval_debValid_zero (hs c hzero) _ _ _
    · rw [setBtn_btn_other s hc]
      exact hs c hzero
  decay now hs := by rw [decay_eq]; exact fun b => by cases b <;> exact hs _
  toggleRunning hs b := by cases b <;> exact hs _
  addTime hs b := by cases b <;> exact hs _
  lastUpdate _ hs b := by cases b <;> exact hs _
  frame _ _ hs b := by cases b <;> exact hs _
  fault _ hs b := by cases b <;> exact hs _

/-! ### The ranges (R11) -/

/-- The `Ms` registers of the buttons, the engine and the display. -/
structure UnitRanges (s : State) : Prop where
  debUntil0 : s.btn0.debUntil < 2 ^ s.par.msW
  debUntil1 : s.btn1.debUntil < 2 ^ s.par.msW
  remaining : s.eng.remaining < 2 ^ s.par.msW
  lastUpdate : s.eng.lastUpdate < 2 ^ s.par.msW
  blNext : s.dsp.blNext < 2 ^ s.par.msW
  allNext : s.dsp.allNext < 2 ^ s.par.msW

theorem frameNotAll_blNext_lt {p : Params} {d : Dsp} {now : Nat} (hbl : d.blNext < 2 ^ p.msW) (hnow : now < 2 ^ p.msW)
    (n : BitVec 4) (kind : BlinkKind) : (frameNotAll p n kind now d).blNext < 2 ^ p.msW := by
  have hkeep : (resyncIfDue n d).blNext < 2 ^ p.msW := by
    unfold resyncIfDue
    split <;> exact hbl
  rw [frameNotAll_eq]
  exact blinky_next_lt (d := { resyncIfDue n d with wasAll := false }) hkeep hnow _ _

/-- The deadlines after a legal frame. -/
theorem frame_next_lt {p : Params} {n : BitVec 4} {kind : BlinkKind} {now : Nat} {d e : Dsp} (hnow : now < 2 ^ p.msW)
    (hframe : frame p n kind now d = .ok e) (hbl : d.blNext < 2 ^ p.msW) (hall : d.allNext < 2 ^ p.msW) :
    e.blNext < 2 ^ p.msW ∧ e.allNext < 2 ^ p.msW := by
  rcases frame_cases p n kind now d with ⟨-, h⟩ | ⟨-, -, h⟩ | ⟨-, -, h⟩ | ⟨-, -, -, h⟩ <;>
    rw [h] at hframe <;> cases hframe
  · rcases allUpdate_cases p now d with ⟨-, h⟩ | ⟨-, h⟩ | ⟨-, h⟩ <;> rw [h]
    · exact ⟨hbl, hall⟩
    · exact ⟨hbl, wrapAdd_lt _ _ _⟩
    · exact ⟨hbl, wrapAdd_lt _ _ _⟩
  · exact ⟨frameNotAll_blNext_lt hbl hnow n kind, by rw [(frameNotAll_schedule p n kind now d).2]; exact hall⟩

theorem unitRanges_keeps : UnitsKeep UnitRanges where
  sameUnits h hs := by
    obtain ⟨h0, h1, hrem, hlast, hbl, hall⟩ := hs
    constructor <;> simpa only [State.par, h.cfg, h.btn0, h.btn1, h.eng, h.dsp]
  reset _ := by constructor <;> exact Nat.two_pow_pos _
  button {s} b now hs := by
    obtain ⟨h0, h1, hrem, hlast, hbl, hall⟩ := hs
    cases b
    · exact ⟨buttonEval_debUntil_lt h0 _ _ _, h1, hrem, hlast, hbl, hall⟩
    · exact ⟨h0, buttonEval_debUntil_lt h1 _ _ _, hrem, hlast, hbl, hall⟩
  decay {s} now hs := by
    rw [decay_eq]
    exact { hs with remaining := Nat.lt_of_le_of_lt (decayed_le now s) hs.remaining }
  toggleRunning hs := { hs with }
  addTime {s} hs := { hs with
    remaining := Nat.lt_of_le_of_lt (addTime_le s.par.segPeriod s.eng.remaining) s.cfg.valid.budget_fits }
  lastUpdate hnow hs := { hs with lastUpdate := hnow }
  frame hnow hframe hs :=
    let ⟨hbl, hall⟩ := frame_next_lt hnow hframe hs.blNext hs.allNext
    { hs with blNext := hbl, allNext := hall }
  fault _ hs := { hs with }

/-! ### The display (R39, R170, R171) -/

/-- Every LED at or above the count `n` is off, but for the one at `n` while it blinks. -/
def DarkAbove (n : Nat) (d : Dsp) : Prop :=
  ∀ i < 8, n ≤ i → d.led.getLsbD i = true → d.blValid = true ∧ d.blIdx.toNat = i ∧ i = n

/-- The solid renderer's part of a frame makes the ring dark above the new count: by its writes, or because the ring
was. -/
theorem resyncIfDue_darkAbove {s : State} (hinv : DisplayInv s) (n : BitVec 4) :
    DarkAbove n.toNat { resyncIfDue n s.dsp with wasAll := false } := by
  intro i hi hn hlit
  unfold resyncIfDue at hlit ⊢
  split at hlit
  · have hoff := resync_led n s.dsp hi
    rw [decide_eq_false (Nat.not_lt.mpr hn)] at hoff
    exact absurd (hlit.symm.trans hoff) (by decide)
  · rename_i hdue
    obtain ⟨hnum, hmode⟩ := not_or.mp hdue
    have hcount : n = s.dsp.numOn := not_not.mp hnum
    have hall : s.dsp.wasAll = false := by simpa using hmode
    have hblinks : s.dsp.blValid = true ∧ s.dsp.blIdx.toNat = i := by
      by_contra hnot
      exact absurd (hlit.symm.trans (hinv.above_off hall i hi (hcount ▸ hn) hnot)) (by decide)
    obtain ⟨hvalid, hidx⟩ := hblinks
    rw [if_neg hdue]
    exact ⟨hvalid, hidx, by rw [← hidx, hinv.blink_at hall hvalid, hcount]⟩

/-- Blinky keeps the ring dark above the count, when it is given the index at the count or none. -/
theorem blinky_darkAbove {n : Nat} {d : Dsp} (hdark : DarkAbove n d) {newIdx : Option (BitVec 3)}
    (hidx : ∀ B, newIdx = some B → B.toNat = n) (p : Params) (isFast : Bool) (now : Nat) :
    DarkAbove n (blinky p newIdx isFast now d) := by
  intro i hi hn hlit
  obtain ⟨hvalid', hidx'⟩ := blinky_index p newIdx isFast now d
  have hblinking (h : d.led.getLsbD i = true) : d.blValid = true ∧ d.blIdx.toNat = i := by
    obtain ⟨hvalid, hidx, -⟩ := hdark i hi hn h
    exact ⟨hvalid, hidx⟩
  have hcount (h : d.led.getLsbD i = true) : i = n := by
    obtain ⟨-, -, hcount⟩ := hdark i hi hn h
    exact hcount
  have hat : newIdx.isSome = true ∧ i = n := by
    unfold blinky at hlit
    split at hlit
    case h_1 hvalid => exact absurd (hvalid.symm.trans (hblinking hlit).1) (by decide)
    case h_2 hvalid =>
      rw [blinkStop_led] at hlit
      split at hlit
      · cases hlit
      · rename_i hother
        exact absurd (hblinking hlit).2.symm hother
    case h_3 B hvalid =>
      rw [blinkStart, toggle_led] at hlit
      split at hlit
      · rename_i hB
        exact ⟨rfl, hB.trans (hidx B rfl)⟩
      · exact absurd (hvalid.symm.trans (hblinking hlit).1) (by decide)
    case h_4 B hvalid =>
      refine ⟨rfl, ?_⟩
      split at hlit
      · rename_i hB
        split at hlit
        · rw [toggle_led] at hlit
          split at hlit
          · rename_i hi'
            rw [hi', hB, hidx B rfl]
          · exact hcount hlit
        · exact hcount hlit
      · exact hcount hlit
  obtain ⟨hsome, rfl⟩ := hat
  obtain ⟨B, rfl⟩ := Option.isSome_iff_exists.mp hsome
  exact ⟨hvalid'.trans hsome, by rw [hidx' B rfl, hidx B rfl], rfl⟩

/-- A frame that is not `All`. -/
theorem frameNotAll_displayInv {s : State} {n : BitVec 4} {kind : BlinkKind} (hinv : DisplayInv s) (hn : n.toNat ≤ 8)
    (hseven : isBlink kind = true → n.toNat ≤ 7) (p : Params) (now : Nat) :
    DisplayInv { s with dsp := frameNotAll p n kind now s.dsp } := by
  obtain ⟨hnum, hall, hvalid⟩ := frameNotAll_mode p n kind now s.dsp
  have hidx : ∀ B, blinkIndexOf n kind = some B → B.toNat = n.toNat := by
    intro B hB
    have hblink : isBlink kind = true := by
      by_contra hno
      rw [blinkIndexOf_noBlink (by simpa using hno)] at hB
      cases hB
    rw [blinkIndexOf_blink hblink] at hB
    cases hB
    exact setWidth_toNat (hseven hblink)
  have hdark : DarkAbove n.toNat (frameNotAll p n kind now s.dsp) :=
    blinky_darkAbove (resyncIfDue_darkAbove hinv n) hidx p _ now
  constructor
  case numOn_le => simpa only [hnum] using hn
  case all_noBlink => intro h; exact absurd (h.symm.trans hall) (by decide)
  case all_lockstep => intro h; exact absurd (h.symm.trans hall) (by decide)
  case blink_at =>
    intro _ hblinks
    have hblink : isBlink kind = true := hvalid.symm.trans hblinks
    exact (frameNotAll_blIdx hblink (hseven hblink) p now s.dsp).trans (congrArg BitVec.toNat hnum.symm)
  case above_off =>
    intro _ i hi hge hnot
    simp only [hnum] at hge
    by_contra hlit
    obtain ⟨hblinks, hat, -⟩ := hdark i hi hge (by simpa using hlit)
    exact hnot ⟨hblinks, hat⟩

/-- A lockstep toggle of a ring on which nothing blinks. -/
theorem allToggle_displayInv {s : State} {d : Dsp} (hn : d.numOn.toNat ≤ 8) (hall : d.wasAll = true)
    (hvalid : d.blValid = false) (p : Params) : DisplayInv { s with dsp := allToggle p d } where
  numOn_le := hn
  all_noBlink _ := hvalid
  all_lockstep _ i hi := ledWriteAll_getLsbD d.led (fun _ => !d.allOn) hi
  blink_at h := absurd (hall.symm.trans h) (by decide)
  above_off h := absurd (hall.symm.trans h) (by decide)

theorem allUpdate_displayInv {s : State} (hinv : DisplayInv s) (p : Params) (now : Nat) :
    DisplayInv { s with dsp := allUpdate p now s.dsp } := by
  rcases allUpdate_cases p now s.dsp with ⟨-, h⟩ | ⟨hall, h⟩ | ⟨-, h⟩ <;> rw [h]
  · exact hinv
  · exact allToggle_displayInv hinv.numOn_le hall (hinv.all_noBlink hall) p
  · exact allToggle_displayInv (d := allEnter now s.dsp) hinv.numOn_le rfl rfl p

/-- The invariant is one of the display record alone. -/
theorem DisplayInv.of_dsp {s t : State} (h : DisplayInv s) (hdsp : t.dsp = s.dsp) : DisplayInv t := by
  obtain ⟨h1, h2, h3, h4, h5⟩ := h
  constructor <;> rw [hdsp]
  exacts [h1, h2, h3, h4, h5]

theorem displayInv_keeps : UnitsKeep DisplayInv where
  sameUnits h hs := hs.of_dsp h.dsp
  reset _ :=
    { numOn_le := Nat.zero_le 8
      all_noBlink := fun _ => rfl
      all_lockstep := fun h => Bool.noConfusion h
      blink_at := fun _ h => Bool.noConfusion h
      above_off := fun _ _ _ _ _ => BitVec.getLsbD_zero }
  button b now hs := hs.of_dsp (setBtn_dsp ..)
  decay now hs := hs.of_dsp (by rw [decay_eq])
  toggleRunning hs := hs.of_dsp rfl
  addTime hs := hs.of_dsp rfl
  lastUpdate _ hs := hs.of_dsp rfl
  frame {s n kind now d} _ hframe hs := by
    rcases frame_cases s.par n kind now s.dsp with ⟨-, h⟩ | ⟨-, -, h⟩ | ⟨-, -, h⟩ | ⟨hn, -, hseven, h⟩ <;>
      rw [h] at hframe <;> cases hframe
    · exact allUpdate_displayInv hs _ _
    · exact frameNotAll_displayInv hs hn hseven _ _
  fault _ hs := hs.of_dsp rfl

/-! ### Where a fault can come from (60_exceptions.md R203) -/

/-- Under the budget invariant no decoded operation but a frame of the host raises a fault. -/
theorem after_noFault {s : State} {i : Instr} (hfault : s.fault = false) (hinv : EngineInv s)
    (hi : ∀ n kind now, i ≠ .dspUpdate n kind now) : (after i s).fault = false := by
  by_contra hraised
  have hchange : (after i s).fault ≠ s.fault := by rw [hfault]; exact hraised
  obtain ⟨-, -, -, -, -, -, -, hwrites, -⟩ := eachUnitHasItsMutators i s _ (exec_eq i s)
  rcases hwrites hchange with ⟨now, rfl⟩ | ⟨n, kind, now, rfl⟩
  · obtain ⟨d, hframe⟩ := frame_directive_ok (engineInputs_engineInv hinv now) now (engineInputs now s).dsp
    have h := exec_next.mp (exec_engUpdate hfault hframe)
    rw [h, engineInputs_eq] at hraised
    exact hraised hfault
  · exact hi n kind now rfl

end Sys2Proof.Machine

open Sys2Proof Sys2Proof.Machine

/-- Settles O55, by `engineInv_keeps`. -/
theorem stepKeepsTheBudget : Obligations.StepKeepsTheBudget := fun _ _ => engineInv_keeps.step

/-- Settles O56, by `faultInv_keeps`. -/
theorem stepKeepsTheFaultRecord : Obligations.StepKeepsTheFaultRecord := fun _ _ => faultInv_keeps.step

/-- Settles O58, by `buttonInv_keeps`. -/
theorem stepKeepsTheButtons : Obligations.StepKeepsTheButtons := fun _ _ => buttonInv_keeps.step

/-- Settles O59, by `displayInv_keeps`: a frame leaves the ring dark above its count, or in lockstep. -/
theorem stepKeepsTheDisplay : Obligations.StepKeepsTheDisplay := fun _ _ => displayInv_keeps.step

/-- Settles O35: an accepted word is the only move that can write the fault record, and `after_noFault` says which. -/
theorem onlyADirectFrameCanFault : Obligations.OnlyADirectFrameCanFault := by
  intro s t hfault hinv hstep hnoFrame
  refine ⟨?_, stepKeepsTheBudget s t hinv hstep⟩
  obtain ⟨env, hmove⟩ := step_stepOn hstep
  generalize (nextEvent s).1 = e at hmove hnoFrame
  cases hmove with
  | reset => rfl
  | contact b v => rw [(polled_sameUnits _).fault, setContact_fault]; exact hfault
  | advance k => rw [(polled_sameUnits _).fault]; exact hfault
  | ignored w => rw [(pollWait_sameUnits _).fault]; exact hfault
  | illegal w r => exact runCommand_keeps (P := fun u => u.fault = false) hfault fun _ => hfault
  | run w i _ hdecode =>
    exact after_noFault (by exact hfault) (by exact hinv) fun n kind now hi =>
      hnoFrame w n kind now rfl (hi ▸ hdecode)
end

section
/-! The proofs about `CLK.WAIT` and `CLK.NOW` (40_clock.md R103 to R105), one at a time and in the runs of R101 and
R251. -/

namespace Sys2Proof.Machine

open Host

/-! ### The end of a wait, and the command (R103, R104) -/

/-- A coarse wait ends: one period more, HWT moved by the gap between the peek and the read, the flag cleared. -/
theorem waitEnd_coarse_eq {s : State} (hcoarse : s.par.variant = .coarse) : ∃ (k : Nat) (env : Env),
    waitEnd s = { s with
      clk := { s.clk with msAcc := wrapAdd s.par.msW s.clk.msAcc s.par.tickPeriod },
      hwt := { phase := (s.hwt.advance (maxCount s.par) k).phase, wrapf := false },
      waiting := false, rsp := some ⟨.ok, 0⟩, wrapClr := true, env := env } ∧
    env.events = s.env.events ∧
    ∀ d ds, s.env.draws = d :: ds → k = d ∧ env = { s.env with draws := ds } := by
  obtain ⟨k, env, hgap, hevents, hdraws⟩ := hwtGap_eq s
  refine ⟨k, env, ?_, hevents, hdraws⟩
  rw [waitEnd_coarse hcoarse, coarseTick_eq, hgap, respond_eq, Nat.zero_mod]

/-- A fine wait ends: the flag and the clock unit are left alone. -/
theorem waitEnd_fine_eq {s : State} (hfine : s.par.variant = .fine) :
    waitEnd s = { s with waiting := false, rsp := some ⟨.ok, 0⟩ } := by
  rw [waitEnd_fine hfine, respond_eq, Nat.zero_mod]

section
variable {s : State} (hfault : s.fault = false) (hvalid : s.clk.clkValid = true)

include hfault hvalid

theorem exec_clkWait_set (hset : s.hwt.wrapf = true) :
    exec .clkWait s = .next (waitEnd { s with waiting := true, rsp := none }) := by
  rw [exec_next, after, runClockCommand_ready hfault hvalid, clkWaitRun, pollWait_set (by exact hset)]

theorem exec_clkWait_clear (hclear : s.hwt.wrapf = false) :
    exec .clkWait s = .next { s with waiting := true, rsp := none } := by
  rw [exec_next, after, runClockCommand_ready hfault hvalid, clkWaitRun, pollWait_clear (by exact hclear)]

end

/-! ### The steps of a wait in progress -/

theorem step_waiting_advance {s : State} {k : Nat} {rest : List Event} (hwait : s.waiting = true)
    (hmove : s.env.events = .advance k :: rest) : step s = .next (pollWait (hwtAdvance k
      { s with env := { s.env with events := rest }, rsp := none, wrapClr := false })) := by
  have h := stepped_stepOn (nextEvent_listed hmove)
  rw [step_eq]
  generalize stepped s = t at h
  cases h
  rw [polled_waiting (by exact hwait)]
  rfl

theorem step_waiting_contact {s : State} {b : BtnId} {v : Bool} {rest : List Event} (hwait : s.waiting = true)
    (hmove : s.env.events = .contact b v :: rest) : step s = .next (pollWait (setContact b v
      { s with env := { s.env with events := rest }, rsp := none, wrapClr := false })) := by
  have h := stepped_stepOn (nextEvent_listed hmove)
  rw [step_eq]
  generalize stepped s = t at h
  cases h
  rw [polled_waiting (by rw [setContact_waiting]; exact hwait)]
  rfl

/-! ### Waits in a run (R101, R251) -/

/-- The step of a run in which a wait is in progress. -/
theorem IsRun.waiting_next {r : Nat → State} (hrun : IsRun r) {n : Nat} (hwait : (r n).waiting = true) :
    ∃ env, r (n + 1) = { waitingStep (r n) with env := env } := by
  obtain ⟨t, env, hstep, hnext⟩ := hrun n
  rw [step, if_pos hwait] at hstep
  injection hstep with ht
  exact ⟨env, ht ▸ hnext⟩

/-- A step of a wait in a run: it goes on, or it ends. -/
theorem IsRun.waiting_or_ends {r : Nat → State} (hrun : IsRun r) {n : Nat} (hwait : (r n).waiting = true) :
    (r (n + 1)).waiting = true ∨ WaitEndsAt r n := by
  obtain ⟨env, hnext⟩ := hrun.waiting_next hwait
  rcases waitingStep_cases (r n) with h | ⟨hended, hhow⟩
  · exact .inl (by rw [hnext]; exact h.trans hwait)
  · exact .inr ⟨hwait, by rw [hnext]; exact hended, by rw [hnext]; exact hhow⟩

/-- The wait ends in the step in which HWT passes `MAX_COUNT`. -/
theorem IsRun.ends_of_passes {r : Nat → State} (hrun : IsRun r) {n : Nat} (hwait : (r n).waiting = true)
    (hpasses : (r n).hwtPasses) : WaitEndsAt r n := by
  obtain ⟨env, hnext⟩ := hrun.waiting_next hwait
  obtain ⟨hended, hrsp⟩ := waitingStep_passes hwait hpasses
  exact ⟨hwait, by rw [hnext]; exact hended, .inl (by rw [hnext]; exact hrsp)⟩

/-- By the step in which HWT passes `MAX_COUNT`, a wait has ended. -/
theorem IsRun.ends_by {r : Nat → State} (hrun : IsRun r) (d : Nat) {n : Nat} (hwait : (r n).waiting = true)
    (hpasses : (r (n + d)).hwtPasses) : ∃ m, n ≤ m ∧ WaitEndsAt r m := by
  induction d generalizing n with
  | zero => exact ⟨n, Nat.le_refl n, hrun.ends_of_passes hwait hpasses⟩
  | succ d ih =>
    rcases hrun.waiting_or_ends hwait with hgoes | hends
    · obtain ⟨m, hm, hends⟩ := ih hgoes (by rwa [Nat.add_right_comm])
      exact ⟨m, Nat.le_of_succ_le hm, hends⟩
    · exact ⟨n, Nat.le_refl n, hends⟩

theorem IsRun.wait_ends {r : Nat → State} (hrun : IsRun r) {n : Nat} (hwait : (r n).waiting = true)
    (hserved : HwtServed r n) : ∃ m, n ≤ m ∧ WaitEndsAt r m := by
  obtain ⟨m, hm, hpasses⟩ := hserved
  obtain ⟨d, rfl⟩ := Nat.exists_eq_add_of_le hm
  exact hrun.ends_by d hwait hpasses

end Sys2Proof.Machine

open Sys2Proof Sys2Proof.Machine

/-- Settles O13, by `exec_clkWait_set` and `waitEnd_coarse_eq`, and `exec_clkWait_clear`. -/
theorem coarseWaitAddsOnePeriod : Obligations.CoarseWaitAddsOnePeriod := by
  intro s hfault hcoarse hvalid
  refine ⟨fun hset => ?_, exec_clkWait_clear hfault hvalid⟩
  obtain ⟨k, env, hend, hevents, hdraws⟩ := waitEnd_coarse_eq (s := { s with waiting := true, rsp := none }) hcoarse
  exact ⟨k, env, by rw [exec_clkWait_set hfault hvalid hset, hend]; rfl, hevents, hdraws⟩

/-- Settles O14, by `exec_clkWait_set` and `waitEnd_fine_eq`, and `exec_clkWait_clear`. -/
theorem fineWaitOnlyPeeks : Obligations.FineWaitOnlyPeeks := by
  intro s hfault hfine hvalid
  refine ⟨fun hset => ?_, exec_clkWait_clear hfault hvalid⟩
  rw [exec_clkWait_set hfault hvalid hset, waitEnd_fine_eq (by exact hfine)]

/-- Settles O15: after the move the block polls. A wrap has set the flag, so `waitEnd` follows; any other move leaves it
clear. In a run that poll comes by the next wrap (`IsRun.ends_by`). -/
theorem waitEndsWhenTheCounterWraps : Obligations.WaitEndsWhenTheCounterWraps := by
  refine ⟨fun s k rest hwait hclear hmove => ⟨fun hwrap => ?_, fun hstays => ?_⟩,
    fun s b v rest hwait hclear hmove => ?_, fun r n hrun => hrun.wait_ends,
    fun r n hfair hwait => hfair.1.wait_ends hwait (hfair.2 n)⟩
  · have hset : (s.hwt.advance (maxCount s.par) k).wrapf = true := by simp [advance_wrapf, hwrap]
    have hstep := step_waiting_advance hwait hmove
    rw [pollWait_set (by exact hset)] at hstep
    refine ⟨_, hstep, (waitEnd_answers _).1, (waitEnd_answers _).2, ?_⟩
    cases hvariant : s.par.variant with
    | coarse =>
      obtain ⟨k', env, hend, hevents, -⟩ := waitEnd_coarse_eq (s := hwtAdvance k
        { s with env := { s.env with events := rest }, rsp := none, wrapClr := false }) hvariant
      rw [hend]
      exact ⟨hevents, fun _ => ⟨rfl, rfl, rfl⟩, nofun⟩
    | fine =>
      rw [waitEnd_fine_eq (by exact hvariant)]
      exact ⟨rfl, nofun, fun _ => ⟨hset, rfl, rfl⟩⟩
  · have hstill : (s.hwt.advance (maxCount s.par) k).wrapf = false := by
      simp [advance_wrapf, hclear, Nat.not_lt.mpr hstays]
    have hstep := step_waiting_advance hwait hmove
    rw [pollWait_clear (by exact hstill)] at hstep
    exact ⟨_, hstep, hwait, rfl, rfl, rfl, hstill, advance_phase_of_le hstays⟩
  · rw [step_waiting_contact hwait hmove, pollWait_clear (by rw [setContact_hwt]; exact hclear)]

/-- Settles O17: the accumulator fits the response port (`RangeInv`). -/
theorem coarseNowReturnsTheAccumulator : Obligations.CoarseNowReturnsTheAccumulator := by
  intro s hfault hcoarse hvalid hrange
  rw [exec_next, after, decide_eq_true hcoarse, runClockCommand_ready hfault hvalid, clkNowRun, respond_eq,
    Nat.mod_eq_of_lt hrange.msAcc]
end

section
/-! The proofs about HWT and the clock unit's invariant (40_clock.md R101, R108; 10_state.md R21, R22): how advances
compose, what every step keeps, and where the wrap flag can rise. -/

namespace Sys2Proof.Machine

open Host

/-! ### Advances (R101) -/

/-- Two advances reach the phase of one by their sum. -/
theorem advance_advance_phase {max : Nat} (hm : max < 2 ^ 24) (j k : Nat) (h : Hwt) :
    ((h.advance max j).advance max k).phase.toNat = (h.phase.toNat + j + k) % (max + 1) := by
  rw [advance_phase hm, advance_phase hm, Nat.mod_add_mod]

/-- An advance within the period, of a counter that fits its 24 bits. -/
theorem advance_phase_within {max k : Nat} {h : Hwt} (hm : max < 2 ^ 24) (hk : h.phase.toNat + k ≤ max) :
    (h.advance max k).phase.toNat = h.phase.toNat + k := by
  rw [advance_phase hm, Nat.mod_eq_of_lt (Nat.lt_succ_of_le hk)]

theorem advance_wrapf_iff {max k : Nat} {h : Hwt} :
    (h.advance max k).wrapf = true ↔ h.wrapf = true ∨ max < h.phase.toNat + k := by
  rw [advance_wrapf, Bool.or_eq_true, decide_eq_true_iff]

theorem advance_wrapf_eq_false {max k : Nat} {h : Hwt} :
    (h.advance max k).wrapf = false ↔ h.wrapf = false ∧ h.phase.toNat + k ≤ max := by
  rw [advance_wrapf, Bool.or_eq_false_iff, decide_eq_false_iff_not, Nat.not_lt]

/-- HWT advances by the total: the flag of the second advance sees a wrap of either. -/
theorem advance_add {max : Nat} (hm : max < 2 ^ 24) (j k : Nat) (h : Hwt) :
    h.advance max (j + k) = (h.advance max j).advance max k := by
  have hphase : (h.advance max (j + k)).phase = ((h.advance max j).advance max k).phase := by
    apply BitVec.eq_of_toNat_eq
    rw [advance_phase hm, advance_advance_phase hm, Nat.add_assoc]
  have hflag : (h.advance max (j + k)).wrapf = ((h.advance max j).advance max k).wrapf := by
    rw [Bool.eq_iff_iff, advance_wrapf_iff, advance_wrapf_iff, advance_wrapf_iff, or_assoc]
    refine or_congr_right ?_
    by_cases hj : h.phase.toNat + j ≤ max
    · rw [advance_phase_within hm hj]
      omega
    · simp only [Nat.not_le.mp hj, true_or, iff_true]
      omega
  generalize h.advance max (j + k) = a at hphase hflag ⊢
  generalize (h.advance max j).advance max k = b at hphase hflag ⊢
  cases a
  cases b
  cases hphase
  cases hflag
  rfl

/-! ### What keeps the clock unit and HWT consistent (R108) -/

theorem ClockInv.maxCount_lt {s : State} (hinv : ClockInv s) (hvalid : s.clk.clkValid = true) :
    maxCount s.par < 2 ^ 24 :=
  Machine.maxCount_lt (hinv.reload_ok hvalid)

/-- The invariant is one of the configuration, the clock unit and HWT. -/
theorem ClockInv.of_same {s t : State} (hinv : ClockInv s) (hcfg : t.cfg = s.cfg) (hclk : t.clk = s.clk)
    (hhwt : t.hwt = s.hwt) : ClockInv t := by
  obtain ⟨h1, h2, h3, h4, h5, h6, h7⟩ := hinv
  constructor <;> simpa only [State.par, hcfg, hclk, hhwt]

/-- A block without a clock whose accumulators are at 0. -/
theorem ClockInv.of_reset {s : State} (hclk : s.clk = Clk.reset) : ClockInv s := by
  constructor <;> simp [hclk, Clk.reset]

theorem ClockInv.advance {s : State} (hinv : ClockInv s) (k : Nat) : ClockInv (hwtAdvance k s) := by
  obtain ⟨hfticks, hlast, hacc, hreload, hlast_le, -, hflag⟩ := hinv
  refine ⟨hfticks, hlast, hacc, hreload, hlast_le, fun hvalid => ?_, fun hfine hvalid hclear => ?_⟩
  · exact advance_phase_le (Machine.maxCount_lt (hreload hvalid)) k s.hwt
  · obtain ⟨hbefore, hwithin⟩ := advance_wrapf_eq_false.mp hclear
    have hphase := advance_phase_within (Machine.maxCount_lt (hreload hvalid)) hwithin
    exact Nat.le_trans (hflag hfine hvalid hbefore) (by rw [hwtAdvance_hwt, hphase]; exact Nat.le_add_right _ _)

/-- The end of a wait: a coarse one clears the flag, which the coarse variant's invariant does not mention. -/
theorem ClockInv.waitEnd {s : State} (hinv : ClockInv s) : ClockInv (waitEnd s) := by
  cases hvariant : s.par.variant with
  | fine =>
    rw [waitEnd_fine_eq hvariant]
    exact hinv.of_same rfl rfl rfl
  | coarse =>
    obtain ⟨k, env, h, -, -⟩ := waitEnd_coarse_eq hvariant
    rw [h]
    have hnotFine (hfine : s.par.variant = .fine) : False := by rw [hvariant] at hfine; cases hfine
    exact { hinv with
      fine_msAcc := fun hfine => (hnotFine hfine).elim
      phase_le := fun hvalid => advance_phase_le (hinv.maxCount_lt hvalid) k s.hwt
      fine_flag := fun hfine => (hnotFine hfine).elim }

theorem ClockInv.pollWait {s : State} (hinv : ClockInv s) : ClockInv (pollWait s) := by
  unfold Machine.pollWait
  split
  · exact hinv.waitEnd
  · exact hinv

theorem ClockInv.clkInitRun {s : State} (hinv : ClockInv s) : ClockInv (clkInitRun s) := by
  unfold Machine.clkInitRun
  split
  case isTrue hreload =>
    exact ⟨fun _ => rfl, fun _ => rfl, fun _ => rfl, fun _ => hreload, fun _ => Nat.zero_le _, fun _ => Nat.zero_le _,
      fun _ _ _ => Nat.zero_le _⟩
  case isFalse => exact ⟨hinv.coarse_fticks, hinv.coarse_lastRead, hinv.fine_msAcc, nofun, nofun, nofun, nofun⟩

/-- The double read: its second sample is both the last read and the phase. -/
theorem ClockInv.fclkNowRun {s : State} (hinv : ClockInv s) (hfine : s.par.variant = .fine)
    (hvalid : s.clk.clkValid = true) : ClockInv (fclkNowRun s) := by
  obtain ⟨k1, k2, env, h, -, -⟩ := fclkNowRun_eq s
  rw [h]
  have hle := advance_phase_le (hinv.maxCount_lt hvalid) k2 { s.hwt.advance (maxCount s.par) k1 with wrapf := false }
  have hnotCoarse (hcoarse : s.par.variant = .coarse) : False := by rw [hfine] at hcoarse; cases hcoarse
  exact { hinv with
    coarse_fticks := fun hcoarse => (hnotCoarse hcoarse).elim
    coarse_lastRead := fun hcoarse => (hnotCoarse hcoarse).elim
    lastRead_le := fun _ => hle
    phase_le := fun _ => hle
    fine_flag := fun _ _ _ => Nat.le_refl _ }

/-- Every operation keeps it. -/
theorem ClockInv.after {s : State} (hinv : ClockInv s) (i : Instr) : ClockInv (after i s) :=
  after_keeps (fun _ h => hinv.of_same h.cfg h.clk h.hwt) hinv.clkInitRun
    (fun _ _ => (hinv.of_same (t := { s with waiting := true, rsp := none }) rfl rfl rfl).pollWait) hinv.fclkNowRun i

/-! ### Where the flag can rise (R101) -/

/-- The moves of HWT in a step on an advance begin with that advance. -/
theorem mem_hwtMoves_advance {s : State} {k : Nat} {env : Env}
    (hnext : nextEvent s = (.advance k, { s with env := env })) : (s.hwt, k) ∈ hwtMoves s := by
  unfold hwtMoves
  rw [nextEvent_endPulses_of hnext]
  exact List.mem_cons_self

/-- The moves of HWT in the step that runs a word are those in the gaps of its operation. -/
theorem hwtMoves_run {s : State} {w : Nat} {env : Env} {i : Instr} (hready : s.waiting = false)
    (hnext : nextEvent s = (.command w, { s with env := env })) (hdecode : decode s.par.msW w = .ok i) :
    hwtMoves s = operationMoves i { endPulses s with env := env } := by
  unfold hwtMoves
  rw [nextEvent_endPulses_of hnext]
  simp [hready, hdecode]

/-- An operation that sets a clear flag does so in a gap, by a move past `MAX_COUNT`: a wait that finds the flag clear
has no gap, so it is the second gap of a double read. -/
theorem after_sets_flag {i : Instr} {s : State} (hclear : s.hwt.wrapf = false) (hset : (after i s).hwt.wrapf = true) :
    ∃ m ∈ operationMoves i s, m.passes (maxCount s.par) := by
  have same {t : State} (hhwt : t.hwt = s.hwt) (ht : t.hwt.wrapf = true) : False := by
    rw [hhwt, hclear] at ht
    cases ht
  by_cases hi : i = .clkInit ∨ i = .clkWait ∨ i = .fclkNow
  · rcases hi with rfl | rfl | rfl
    · refine (?_ : ¬(after .clkInit s).hwt.wrapf = true).elim hset
      refine runCommand_keeps (P := fun t => ¬t.hwt.wrapf = true) (same rfl) fun _ => ?_
      unfold clkInitRun
      split
      · exact nofun
      · exact same rfl
    · refine (?_ : ¬(after .clkWait s).hwt.wrapf = true).elim hset
      refine runClockCommand_keeps (P := fun t => ¬t.hwt.wrapf = true) (fun _ => same rfl) fun _ _ _ => ?_
      rw [clkWaitRun, pollWait_clear (by exact hclear)]
      exact same rfl
    · rcases runClockCommand_cases (decide (s.par.variant = .fine)) fclkNowRun s with
        ⟨st, h⟩ | ⟨hfault, hfine, hvalid, h⟩
      · rw [after, h] at hset
        exact (same rfl hset).elim
      · rw [after, h] at hset
        have hpasses := (advance_wrapf_iff.mp hset).resolve_left nofun
        refine ⟨gapMove (readClearWrapFlag (hwtGap s)).2, ?_, hpasses⟩
        simp [operationMoves, hfault, hvalid, hfine, readMoves]
  · exact (same (after_sameClock hi s).hwt hset).elim

/-- A poll that finds the flag clear, in progress or not. -/
theorem polled_clear {s : State} (hclear : s.hwt.wrapf = false) : polled s = s := by
  unfold polled
  rw [pollWait_clear hclear, ite_self]

/-- A step that sets a clear flag has HWT move past `MAX_COUNT`. -/
theorem step_sets_flag {s t : State} (hstep : step s = .next t) (hclear : s.hwt.wrapf = false)
    (hset : t.hwt.wrapf = true) : s.hwtPasses := by
  obtain ⟨env, henv⟩ := nextEvent_state s
  have hnext : nextEvent s = ((nextEvent s).1, { s with env := env }) := Prod.ext rfl henv
  have hmove := stepped_stepOn hnext
  rw [step_next.mp hstep] at hmove
  generalize (nextEvent s).1 = e at hnext hmove
  have same {u : State} (hhwt : u.hwt = s.hwt) (hu : u.hwt.wrapf = true) : False := by
    rw [hhwt, hclear] at hu
    cases hu
  cases hmove with
  | reset => exact (same rfl hset).elim
  | contact b v =>
    have hhwt : (setContact b v { endPulses s with env := env }).hwt = s.hwt := setContact_hwt ..
    rw [polled_clear (by rw [hhwt]; exact hclear)] at hset
    exact (same hhwt hset).elim
  | advance k =>
    refine ⟨(s.hwt, k), mem_hwtMoves_advance hnext, ?_⟩
    by_contra hwithin
    have hstill : (s.hwt.advance (maxCount s.par) k).wrapf = false :=
      advance_wrapf_eq_false.mpr ⟨hclear, Nat.not_lt.mp hwithin⟩
    rw [polled_clear (by exact hstill)] at hset
    exact absurd (hset.symm.trans hstill) (by decide)
  | ignored w =>
    rw [pollWait_clear (by exact hclear)] at hset
    exact (same rfl hset).elim
  | illegal w r =>
    refine (?_ : ¬(runCommand (refuse .illegal) _).hwt.wrapf = true).elim hset
    exact runCommand_keeps (P := fun u => ¬u.hwt.wrapf = true) (same rfl) fun _ => same rfl
  | run w i hready hdecode =>
    obtain ⟨m, hm, hpasses⟩ := after_sets_flag (s := { endPulses s with env := env }) hclear hset
    exact ⟨m, by rw [hwtMoves_run hready hnext hdecode]; exact hm, hpasses⟩

end Sys2Proof.Machine

open Sys2Proof Sys2Proof.Machine

/-- Settles O57: the moves that reach the clock unit or HWT are an advance, the end of a wait, and three operations. -/
theorem stepKeepsTheClock : Obligations.StepKeepsTheClock := by
  intro s t hinv hstep
  exact step_keeps (P := ClockInv) (fun _ _ h => h.of_same rfl rfl rfl)
    (fun _ b v h => h.of_same (setContact_cfg b v _) (setContact_clk b v _) (setContact_hwt b v _))
    (fun _ k h => h.advance k) (fun _ _ => .of_reset rfl) (fun _ _ h => h.pollWait)
    (fun _ _ h => runCommand_keeps (h.of_same rfl rfl rfl) fun _ => h.of_same rfl rfl rfl)
    (fun _ i _ _ _ h => h.after i) hinv hstep

/-- Settles O23, by `advance_add`, `step_sets_flag`, and the fairness of the run. -/
theorem counterAdvancesCompose : Obligations.CounterAdvancesCompose := by
  refine ⟨fun max j k h hm _ => ⟨advance_add hm j k h, advance_phase_le hm j h, advance_wrapf_iff⟩,
    fun s t hstep hclear hset => step_sets_flag hstep hclear hset, fun r n hfair => ?_⟩
  obtain ⟨m, hm, move, hmem, hpasses⟩ := hfair.2 n
  exact ⟨m, hm, move, hmem, hpasses, advance_wrapf_iff.mpr (.inr hpasses)⟩
end

section
/-! The proofs about `FCLK.NOW` (40_clock.md R107, R108, R110): the double read, its delta with no wrap and with one,
and the results of successive reads. -/

namespace Sys2Proof.Machine

open Host

/-! ### The double read (R107) -/

/-- HWT after the gap before the flag read, the clearing of the flag, and the gap before the second sample. -/
def readHwt (max k1 k2 : Nat) (h : Hwt) : Hwt := { h.advance max k1 with wrapf := false }.advance max k2

/-- The delta of a double read that finds HWT at `h`, as an exact integer: its second sample against the last read, and
a period more when the flag or the two samples show a wrap. -/
def readDelta (max k1 k2 : Nat) (last : Cnt) (h : Hwt) : Int :=
  if (h.advance max k1).wrapf = true ∨ ((readHwt max k1 k2 h).phase.toNat : Int) < h.phase.toNat then
    ((max : Int) - last.toNat) + (readHwt max k1 k2 h).phase.toNat
  else ((readHwt max k1 k2 h).phase.toNat : Int) - last.toNat

/-- The state after a double read with these gaps. -/
def fineRead (k1 k2 : Nat) (env : Env) (s : State) : State :=
  let fticks := s.clk.fticks + BitVec.ofInt 64 (readDelta (maxCount s.par) k1 k2 s.clk.lastRead s.hwt)
  let hwt := readHwt (maxCount s.par) k1 k2 s.hwt
  { s with
    clk := { s.clk with fticks := fticks, lastRead := hwt.phase }, hwt := hwt, wrapClr := true, env := env,
    rsp := some ⟨.ok, ticksToMs s.par fticks.toNat % 2 ^ s.par.msW⟩ }

/-- `FCLK.NOW` of a valid fine clock is such a read; the listed draws are its gaps. -/
theorem exec_fclkNow {s : State} (hfault : s.fault = false) (hfine : s.par.variant = .fine)
    (hvalid : s.clk.clkValid = true) : ∃ (k1 k2 : Nat) (env : Env), exec .fclkNow s = .next (fineRead k1 k2 env s) ∧
      env.events = s.env.events ∧
      ∀ d e ds, s.env.draws = d :: e :: ds → k1 = d ∧ k2 = e ∧ env = { s.env with draws := ds } := by
  obtain ⟨k1, k2, env, hread, hevents, hdraws⟩ := fclkNowRun_eq s
  refine ⟨k1, k2, env, ?_, hevents, hdraws⟩
  rw [exec_next, after, decide_eq_true hfine, runClockCommand_ready hfault hvalid, hread]
  simp only [fineDelta_eq, BitVec.lt_def, ← Int.ofNat_lt]
  rfl

/-- `exec_fclkNow` with its gaps listed. -/
theorem exec_fclkNow_listed {s : State} {k1 k2 : Nat} {ds : List Nat} (hfault : s.fault = false)
    (hfine : s.par.variant = .fine) (hvalid : s.clk.clkValid = true) (hdraws : s.env.draws = k1 :: k2 :: ds) :
    exec .fclkNow s = .next (fineRead k1 k2 { s.env with draws := ds } s) := by
  obtain ⟨_, _, _, hexec, -, hlisted⟩ := exec_fclkNow hfault hfine hvalid
  obtain ⟨rfl, rfl, rfl⟩ := hlisted k1 k2 ds hdraws
  exact hexec

/-- A read answers the accumulator it leaves, in milliseconds. -/
theorem fineRead_answers {k1 k2 d : Nat} {env : Env} {s : State} (h : (fineRead k1 k2 env s).answers d) :
    d = ticksToMs s.par (fineRead k1 k2 env s).clk.fticks.toNat % 2 ^ s.par.msW := by
  cases h
  rfl

theorem fineRead_fticks {k1 k2 delta : Nat} {s : State}
    (hdelta : readDelta (maxCount s.par) k1 k2 s.clk.lastRead s.hwt = delta) (env : Env) :
    (fineRead k1 k2 env s).clk.fticks = s.clk.fticks + BitVec.ofNat 64 delta := by
  simp only [fineRead, hdelta, BitVec.ofInt_natCast]

/-! ### The delta (R108) -/

section
variable {max k1 k2 : Nat} {last : Cnt} {h : Hwt}

theorem readHwt_phase (hm : max < 2 ^ 24) :
    (readHwt max k1 k2 h).phase.toNat = (h.phase.toNat + k1 + k2) % (max + 1) :=
  advance_advance_phase hm k1 k2 h

/-- Cases (a) and (b): without a wrap the second sample is not before the first, nor this before the last read. -/
theorem readDelta_bounds (hm : max < 2 ^ 24) (hlast : last.toNat ≤ max)
    (hflag : h.wrapf = false → last.toNat ≤ h.phase.toNat) : 0 ≤ readDelta max k1 k2 last h ∧
      readDelta max k1 k2 last h ≤ 2 * max := by
  have hsecond : (readHwt max k1 k2 h).phase.toNat ≤ max := advance_phase_le hm k2 _
  unfold readDelta
  split
  · omega
  · rename_i hno
    obtain ⟨hclear, hsamples⟩ := not_or.mp hno
    obtain ⟨hbefore, -⟩ := advance_wrapf_eq_false.mp (Bool.eq_false_iff.mpr hclear)
    have := hflag hbefore
    omega

/-- Case (b): no wrap up to the second sample. -/
theorem readDelta_noWrap (hm : max < 2 ^ 24) (hclear : h.wrapf = false) (hlast : last.toNat ≤ h.phase.toNat)
    (hno : h.phase.toNat + k1 + k2 ≤ max) :
    readDelta max k1 k2 last h = ((h.phase.toNat + k1 + k2 - last.toNat : Nat) : Int) ∧
      (readHwt max k1 k2 h).phase.toNat = h.phase.toNat + k1 + k2 := by
  have hsecond : (readHwt max k1 k2 h).phase.toNat = h.phase.toNat + k1 + k2 := by
    rw [readHwt_phase hm, Nat.mod_eq_of_lt (Nat.lt_succ_of_le hno)]
  have hflag : (h.advance max k1).wrapf = false := advance_wrapf_eq_false.mpr ⟨hclear, by omega⟩
  refine ⟨?_, hsecond⟩
  rw [readDelta, hsecond, if_neg (by rw [hflag]; simp; omega)]
  omega

/-- Case (c): one wrap, in the `k` counts before the read, in the gap before the flag read, or in the one after it. In
the first two cases the flag shows it, and in the last the samples do (P-FINE-1). -/
theorem readDelta_oneWrap {k : Nat} (hm : max < 2 ^ 24) (hphase : h.phase.toNat ≤ max)
    (hlast : last.toNat ≤ h.phase.toNat) (hgaps : k1 + k2 ≤ max) (hwrap : max < h.phase.toNat + k + k1 + k2)
    (hone : h.phase.toNat + k + k1 + k2 ≤ 2 * max + 1) :
    readDelta max k1 k2 last (h.advance max k) = ((h.phase.toNat + k + k1 + k2 - last.toNat - 1 : Nat) : Int) ∧
      (readHwt max k1 k2 (h.advance max k)).phase.toNat = h.phase.toNat + k + k1 + k2 - (max + 1) := by
  have hfirst := advance_phase hm k h
  have hsecond : (readHwt max k1 k2 (h.advance max k)).phase.toNat = h.phase.toNat + k + k1 + k2 - (max + 1) := by
    rw [readHwt_phase hm, hfirst, Nat.add_assoc, Nat.mod_add_mod, ← Nat.add_assoc, Nat.mod_eq_sub_mod (by omega),
      Nat.mod_eq_of_lt (by omega)]
  refine ⟨?_, hsecond⟩
  have hshown : ((h.advance max k).advance max k1).wrapf = true ∨
      ((readHwt max k1 k2 (h.advance max k)).phase.toNat : Int) < (h.advance max k).phase.toNat := by
    rw [hsecond, advance_wrapf_iff, advance_wrapf_iff]
    by_cases hbefore : h.phase.toNat + k ≤ max
    · rw [advance_phase_within hm hbefore]
      omega
    · exact .inl (.inl (.inr (Nat.not_le.mp hbefore)))
  rw [readDelta, if_pos hshown, hsecond]
  omega

end

/-- Under the clock invariant the delta is a count of at most two full ticks. -/
theorem ClockInv.readDelta_natural {s : State} (hinv : ClockInv s) (hfine : s.par.variant = .fine)
    (hvalid : s.clk.clkValid = true) (k1 k2 : Nat) : ∃ delta : Nat, delta ≤ 2 * maxCount s.par ∧
      readDelta (maxCount s.par) k1 k2 s.clk.lastRead s.hwt = delta := by
  obtain ⟨hnonneg, hle⟩ := readDelta_bounds (k1 := k1) (k2 := k2) (hinv.maxCount_lt hvalid) (hinv.lastRead_le hvalid)
    (hinv.fine_flag hfine hvalid)
  obtain ⟨delta, hdelta⟩ := Int.eq_ofNat_of_zero_le hnonneg
  exact ⟨delta, by omega, hdelta⟩

theorem fineRead_fticks_toNat {k1 k2 delta : Nat} {s : State}
    (hdelta : readDelta (maxCount s.par) k1 k2 s.clk.lastRead s.hwt = delta) (env : Env) :
    (fineRead k1 k2 env s).clk.fticks.toNat = (s.clk.fticks.toNat + delta) % 2 ^ 64 := by
  rw [fineRead_fticks hdelta, BitVec.toNat_add, BitVec.toNat_ofNat, Nat.add_mod_mod]

/-! ### From the end of one read to the next (R108) -/

/-- A `CLK.INIT` or an `FCLK.NOW` that leaves a valid fine clock has just read HWT. -/
theorem exec_reads_phase {s t : State} {i : Instr} (hfault : s.fault = false) (hfine : s.par.variant = .fine)
    (hi : i = .clkInit ∨ i = .fclkNow) (hexec : exec i s = .next t) (hvalid : t.clk.clkValid = true) :
    t.fault = false ∧ t.cfg = s.cfg ∧ t.hwt.phase = t.clk.lastRead := by
  rcases hi with rfl | rfl
  · by_cases hreload : reloadOk s.par = true
    · rw [exec_clkInit_start hfault hreload] at hexec
      cases hexec
      exact ⟨hfault, rfl, rfl⟩
    · rw [exec_clkInit_fail hfault hreload] at hexec
      cases hexec
      cases hvalid
  · rcases s.clk.clkValid.eq_false_or_eq_true with hbefore | hbefore
    · obtain ⟨k1, k2, env, hread, -, -⟩ := exec_fclkNow hfault hfine hbefore
      rw [hread] at hexec
      cases hexec
      exact ⟨hfault, rfl, rfl⟩
    · have hrefused := runClockCommand_noclock hfault (decide_eq_true hfine) hbefore fclkNowRun
      rw [exec_eq, after, hrefused] at hexec
      cases hexec
      exact absurd (hvalid.symm.trans hbefore) (by decide)

/-- A read after `k` counts in which, with the read, one wrap falls (R108 case c). -/
theorem exec_fclkNow_oneWrap {s : State} {k k1 k2 : Nat} {ds : List Nat} (hfault : s.fault = false)
    (hfine : s.par.variant = .fine) (hvalid : s.clk.clkValid = true) (hinv : ClockInv s)
    (hdraws : s.env.draws = k1 :: k2 :: ds) (hclear : s.hwt.wrapf = false) (hgaps : k1 + k2 ≤ maxCount s.par)
    (hwrap : maxCount s.par < s.hwt.phase.toNat + k + k1 + k2)
    (hone : s.hwt.phase.toNat + k + k1 + k2 ≤ 2 * maxCount s.par + 1) :
    ∃ u, exec .fclkNow (hwtAdvance k s) = .next u ∧
      u.clk.fticks = s.clk.fticks +
        BitVec.ofNat 64 (s.hwt.phase.toNat + k + k1 + k2 - s.clk.lastRead.toNat - 1) ∧
      u.clk.lastRead.toNat = s.hwt.phase.toNat + k + k1 + k2 - (maxCount s.par + 1) := by
  obtain ⟨hdelta, hsecond⟩ := readDelta_oneWrap (k := k) (hinv.maxCount_lt hvalid) (hinv.phase_le hvalid)
    (hinv.fine_flag hfine hvalid hclear) hgaps hwrap hone
  exact ⟨_, exec_fclkNow_listed (s := hwtAdvance k s) hfault hfine hvalid hdraws,
    fineRead_fticks (s := hwtAdvance k s) hdelta _, hsecond⟩

end Sys2Proof.Machine

open Sys2Proof Sys2Proof.Machine

/-- Settles O18: `exec_fclkNow`, with `readHwt` and `readDelta` written out. -/
theorem fineNowDoubleRead : Obligations.FineNowDoubleRead := fun _ hfault hfine hvalid =>
  exec_fclkNow hfault hfine hvalid

/-- Settles O19, by `ClockInv.readDelta_natural`. -/
theorem fineDeltaIsNeverNegative : Obligations.FineDeltaIsNeverNegative := by
  intro s hfault hfine hvalid hinv
  obtain ⟨k1, k2, env, hexec, -, -⟩ := exec_fclkNow hfault hfine hvalid
  obtain ⟨delta, hle, hdelta⟩ := hinv.readDelta_natural hfine hvalid k1 k2
  exact ⟨_, delta, hexec, hle, fineRead_fticks_toNat hdelta env⟩

/-- Settles O20, by `readDelta_noWrap`. -/
theorem fineDeltaIsExactWithoutAWrap : Obligations.FineDeltaIsExactWithoutAWrap := by
  intro s k1 k2 ds hfault hfine hvalid hinv hdraws hclear hno
  obtain ⟨hdelta, hsecond⟩ := readDelta_noWrap (hinv.maxCount_lt hvalid) hclear (hinv.fine_flag hfine hvalid hclear) hno
  exact ⟨_, exec_fclkNow_listed hfault hfine hvalid hdraws, fineRead_fticks hdelta _, hsecond⟩

/-- Settles O21: `exec_fclkNow_oneWrap` in the state of the last read. Between two commands that state's phase is the
last read itself (`exec_reads_phase`), so the counts since then are the gaps and `k`. -/
theorem fineDeltaIsOneShortPerWrap : Obligations.FineDeltaIsOneShortPerWrap := by
  refine ⟨fun s k k1 k2 ds => exec_fclkNow_oneWrap, fun s t i k k1 k2 ds hfault hfine hinv hi hexec hvalid hclear hdraws
    hgaps hwrap hone => ?_⟩
  have hinv' : ClockInv t := exec_next.mp hexec ▸ hinv.after i
  obtain ⟨hready, hcfg, hphase⟩ := exec_reads_phase hfault hfine hi hexec hvalid
  simp only [State.par, ← hcfg] at hfine hgaps hwrap hone ⊢
  rw [← hphase, ← Nat.add_assoc, ← Nat.add_assoc] at hwrap hone ⊢
  obtain ⟨u, hread, hfticks, hlast⟩ :=
    exec_fclkNow_oneWrap hready hfine hvalid hinv' hdraws hclear hgaps hwrap hone
  refine ⟨u, hread, ?_, hlast⟩
  rw [hfticks, ← hphase]
  congr 2
  omega

/-- Settles O22: the accumulator grows by a delta of at most two ticks without passing its width, and `TICKS_TO_MS` is
monotone. -/
theorem fineNowNeverDecreases : Obligations.FineNowNeverDecreases := by
  intro s t u k d1 d2 hfault hfine hvalid hinv hexec1 hd1 hexec2 hd2 hwide hport
  have hinv' : ClockInv (hwtAdvance k t) := (exec_next.mp hexec1 ▸ hinv.after .fclkNow).advance k
  obtain ⟨k1, k2, env, hread1, -, -⟩ := exec_fclkNow hfault hfine hvalid
  cases hread1.symm.trans hexec1
  obtain ⟨k3, k4, env', hread2, -, -⟩ :=
    exec_fclkNow (s := hwtAdvance k (fineRead k1 k2 env s)) hfault hfine hvalid
  cases hread2.symm.trans hexec2
  obtain ⟨delta, hle, hdelta⟩ := hinv'.readDelta_natural hfine hvalid k3 k4
  have hgrows := fineRead_fticks_toNat hdelta env'
  have hle' : delta ≤ 2 * maxCount s.par := hle
  rw [hwtAdvance_clk, Nat.mod_eq_of_lt (by omega)] at hgrows
  rw [fineRead_answers hd1, fineRead_answers hd2, hgrows]
  calc ticksToMs s.par (fineRead k1 k2 env s).clk.fticks.toNat % 2 ^ s.par.msW
      _ ≤ ticksToMs s.par (fineRead k1 k2 env s).clk.fticks.toNat := Nat.mod_le _ _
      _ ≤ ticksToMs s.par ((fineRead k1 k2 env s).clk.fticks.toNat + delta) := ticksToMs_mono _ (Nat.le_add_right _ _)
      _ = ticksToMs s.par ((fineRead k1 k2 env s).clk.fticks.toNat + delta) % 2 ^ s.par.msW :=
        (Nat.mod_eq_of_lt (Nat.lt_of_le_of_lt (ticksToMs_mono _ (Nat.add_le_add_left hle' _)) hport)).symm
end

section
/-! The proof about the window after an edge of a button (41_button.md R125). -/

namespace Sys2Proof.Machine

open Host

/-- An update answered with an edge event, where there is a window, opens it: until one delay after `now`. -/
theorem btnUpdate_edge_opens {s t : State} {b : BtnId} {t0 c : Nat} (hfault : s.fault = false)
    (hexec : exec (.btnUpdate b t0) s = .next t) (hanswer : t.answers c) (hedge : c = 1 ∨ c = 3)
    (hdelay : 0 < debounceDelay s.par b) : t.fault = false ∧ (t.btn b).debValid = true ∧
      (t.btn b).debUntil = wrapAdd s.par.msW t0 (debounceDelay s.par b) := by
  have hlevel (l : Bool) : ¬((levelEvent l).code = 1 ∨ (levelEvent l).code = 3) := by cases l <;> decide
  rcases hresult : buttonResult b t0 s with ⟨e, B⟩
  rw [exec_btnUpdate hfault hresult] at hexec
  cases hexec
  cases hanswer
  have hbtn : State.btn { s.setBtn b B with rsp := some ⟨.ok, e.code⟩ } b = B := by cases b <;> rfl
  rw [hbtn]
  refine ⟨by cases b <;> exact hfault, ?_⟩
  rcases buttonEval_cases s.par.msW (debounceDelay s.par b) (s.btn b) t0 (samplePressed b s) with
    ⟨-, h⟩ | ⟨-, -, h⟩ | ⟨-, -, -, h⟩ | ⟨-, -, hzero, -⟩
  · cases hresult.symm.trans h
    exact absurd hedge (hlevel _)
  · cases hresult.symm.trans h
    exact absurd hedge (hlevel _)
  · cases hresult.symm.trans h
    exact ⟨rfl, rfl⟩
  · omega

/-- While every update of a list is a hold, each answers the level event of the one remembered level. -/
theorem buttonReplies_of_holds {b : BtnId} (us : List (Nat × Bool)) {s : State} (hfault : s.fault = false)
    (hholds : ∀ u ∈ us, (s.btn b).holds u.1 = true) : buttonReplies b us s =
      List.replicate us.length (some ⟨.ok, if (s.btn b).level then 2 else 0⟩) := by
  induction us generalizing s with
  | nil => rfl
  | cons u us ih =>
    obtain ⟨now, p⟩ := u
    have hhold : ((setContact b p s).btn b).holds now = true := by
      rw [btn_setContact]
      exact hholds _ List.mem_cons_self
    rw [buttonReplies, exec_btnUpdate_hold (by rw [setContact_fault]; exact hfault) hhold, btn_setContact]
    have hbtn : State.btn { setContact b p s with rsp := some ⟨.ok, if (s.btn b).level then 2 else 0⟩ } b =
        s.btn b := by cases b <;> rfl
    simp only
    rw [ih (by rw [setContact_fault]; exact hfault)
      (fun u hu => by rw [hbtn]; exact hholds u (List.mem_cons_of_mem _ hu)), hbtn]
    rfl

end Sys2Proof.Machine

open Sys2Proof Sys2Proof.Machine

/-- Settles O27: the edge opens the window (`btnUpdate_edge_opens`), and every update in it is a hold
(`buttonReplies_of_holds`). -/
theorem edgesAreOneWindowApart : Obligations.EdgesAreOneWindowApart := by
  intro s t b t0 c us hfault hexec hanswer hedge hdelay hfits hwindow
  obtain ⟨hready, hvalid, huntil⟩ := btnUpdate_edge_opens hfault hexec hanswer hedge hdelay
  rw [wrapAdd_of_lt hfits] at huntil
  have hholds : ∀ u ∈ us, (t.btn b).holds u.1 = true := fun u hu =>
    Btn.holds_iff.mpr ⟨hvalid, by rw [huntil]; exact (hwindow u hu).2⟩
  rw [buttonReplies_of_holds us hready hholds]
  refine ⟨List.length_replicate, fun r hr => ?_⟩
  rw [List.eq_of_mem_replicate hr]
  cases (t.btn b).level
  · exact .inl rfl
  · exact .inr rfl
end

section
/-! The proofs about the last invariants of the state: the ranges of R11, the command port of R70, and all of them at
reset (10_state.md R39, R44). -/

namespace Sys2Proof.Machine

open Host

/-! ### The coarse accumulator (R11) -/

/-- The accumulator is an `Ms` value. -/
def MsAccFits (s : State) : Prop := s.clk.msAcc < 2 ^ s.par.msW

theorem MsAccFits.of_same {s t : State} (h : MsAccFits s) (hcfg : t.cfg = s.cfg) (hclk : t.clk = s.clk) :
    MsAccFits t := by
  unfold MsAccFits State.par
  rw [hcfg, hclk]
  exact h

theorem MsAccFits.pollWait {s : State} (h : MsAccFits s) : MsAccFits (pollWait s) := by
  unfold Machine.pollWait
  split
  · cases hvariant : s.par.variant with
    | coarse =>
      obtain ⟨k, env, hend, -, -⟩ := waitEnd_coarse_eq hvariant
      rw [hend]
      exact wrapAdd_lt _ _ _
    | fine =>
      rw [waitEnd_fine_eq hvariant]
      exact h
  · exact h

theorem MsAccFits.after {s : State} (h : MsAccFits s) (i : Instr) : MsAccFits (after i s) := by
  refine after_keeps (fun _ hsame => h.of_same hsame.cfg hsame.clk) ?_
    (fun _ _ => (h.of_same (t := { s with waiting := true, rsp := none }) rfl rfl).pollWait) ?_ i
  · unfold clkInitRun
    split
    · exact Nat.two_pow_pos _
    · exact h
  · intro _ _
    obtain ⟨k1, k2, env, hread, -, -⟩ := fclkNowRun_eq s
    rw [hread]
    exact h

/-! ### The response data (R11, R75) -/

/-- The response port carries an `Ms` value. -/
def DataFits (s : State) : Prop := ∀ r, s.rsp = some r → r.data < 2 ^ s.par.msW

theorem DataFits.of_none {s : State} (h : s.rsp = none) : DataFits s := fun r hr => by
  rw [h] at hr
  cases hr

/-- A response carries the low bits of its data. -/
theorem dataFits_respond (st : Status) (data : Nat) (s : State) : DataFits (respond st data s) := fun r hr => by
  cases hr
  exact Nat.mod_lt _ (Nat.two_pow_pos _)

theorem DataFits.pollWait {s : State} (h : DataFits s) : DataFits (pollWait s) := by
  unfold Machine.pollWait
  split
  · exact dataFits_respond _ _ _
  · exact h

/-- An operation with a word ends with a response, or leaves a wait in progress without one. -/
theorem after_dataFits {i : Instr} (hhost : i.hostCommand = true) (s : State) : DataFits (after i s) := by
  have hrefuse (st : Status) : DataFits (refuse st s) := dataFits_respond st 0 s
  cases i with
  | clkInit =>
    refine runCommand_keeps (hrefuse _) fun _ => ?_
    unfold clkInitRun
    split <;> exact dataFits_respond _ _ _
  | clkWait => exact runClockCommand_keeps hrefuse fun _ _ _ =>
      (DataFits.of_none (s := { s with waiting := true, rsp := none }) rfl).pollWait
  | clkNow => exact runClockCommand_keeps hrefuse fun _ _ _ => dataFits_respond _ _ _
  | fclkNow => exact runClockCommand_keeps hrefuse fun _ _ _ => dataFits_respond _ _ _
  | btnUpdate b now => exact runCommand_keeps (hrefuse _) fun _ => dataFits_respond _ _ _
  | engUpdate now =>
    refine runCommand_keeps (hrefuse _) fun _ => ?_
    unfold engUpdateRun
    dsimp only
    split <;> exact dataFits_respond _ _ _
  | engAddtime | engDirective => exact runCommand_keeps (P := DataFits) (hrefuse _) fun _ => dataFits_respond _ _ _
  | dspUpdate n kind now =>
    refine runCommand_keeps (hrefuse _) fun _ => ?_
    unfold dspUpdateRun
    split <;> exact dataFits_respond _ _ _
  | solidResync | blinkyUpdate | blinkyToggle | allUpdate => cases hhost

/-! ### The command port (R70, R77) -/

theorem PortInv.of_ready {s : State} (h : s.waiting = false) : PortInv s := by
  constructor <;> exact fun hwait => absurd (h.symm.trans hwait) (by decide)

theorem PortInv.pollWait {s : State} (h : PortInv s) : PortInv (pollWait s) := by
  rcases pollWait_cases s with ⟨-, hsame⟩ | ⟨hended, -⟩
  · rw [hsame]
    exact h
  · exact .of_ready hended

/-- An operation leaves a command in progress only if it is a `CLK.WAIT` that passed the checks and found no wrap. -/
theorem PortInv.after {s : State} (hready : s.waiting = false) (i : Instr) : PortInv (after i s) := by
  have hinit : (clkInitRun s).waiting = false := by
    unfold clkInitRun
    split <;> exact hready
  exact after_keeps (fun _ h => .of_ready (h.waiting.trans hready)) (.of_ready hinit)
    (fun hfault hvalid => PortInv.pollWait ⟨fun _ => hvalid, fun _ => hfault, fun _ => rfl⟩)
    (fun _ _ => .of_ready hready) i

end Sys2Proof.Machine

open Sys2Proof Sys2Proof.Machine

/-- Settles O54: the registers of the units by `unitRanges_keeps`, the accumulator and the response data each by a
`step_keeps` of its own. -/
theorem stepKeepsTheRanges : Obligations.StepKeepsTheRanges := by
  intro s t hinv hstep
  obtain ⟨hacc, h0, h1, hremaining, hlast, hbl, hall, hdata⟩ := hinv
  obtain ⟨h0', h1', hremaining', hlast', hbl', hall'⟩ :=
    unitRanges_keeps.step ⟨h0, h1, hremaining, hlast, hbl, hall⟩ hstep
  have hacc' : MsAccFits t := step_keeps (P := MsAccFits) (fun _ _ h => h)
    (fun _ b v h => h.of_same (setContact_cfg b v _) (setContact_clk b v _)) (fun _ _ h => h)
    (fun _ _ => Nat.two_pow_pos _) (fun _ _ h => h.pollWait)
    (fun _ _ h => runCommand_keeps (P := MsAccFits) h fun _ => h) (fun _ i _ _ _ h => h.after i) hacc hstep
  have hdata' : DataFits t := step_keeps (P := DataFits) (fun _ _ _ => .of_none rfl)
    (fun _ b v h => by unfold DataFits State.par; rw [setContact_rsp, setContact_cfg]; exact h) (fun _ _ h => h)
    (fun _ _ => .of_none rfl) (fun _ _ h => h.pollWait)
    (fun _ _ _ => runCommand_keeps (dataFits_respond _ _ _) fun _ => dataFits_respond _ _ _)
    (fun _ _ _ _ hdecode _ => after_dataFits (decode_hostCommand hdecode) _) hdata hstep
  exact ⟨hacc', h0', h1', hremaining', hlast', hbl', hall', hdata'⟩

/-- Settles O60: a wait in progress polls, and only a `CLK.WAIT` starts one (`PortInv.after`). -/
theorem stepKeepsThePort : Obligations.StepKeepsThePort := by
  intro s t hinv hstep
  exact step_keeps (P := PortInv) (fun _ _ h => ⟨h.waiting_clock, h.waiting_noFault, fun _ => rfl⟩)
    (fun _ b v h => by cases b <;> exact ⟨h.waiting_clock, h.waiting_noFault, h.waiting_noResponse⟩)
    (fun _ _ h => ⟨h.waiting_clock, h.waiting_noFault, h.waiting_noResponse⟩) (fun _ _ => .of_ready rfl)
    (fun _ _ h => h.pollWait)
    (fun _ hready _ => runCommand_keeps (.of_ready hready) fun _ => .of_ready hready)
    (fun _ i _ hready _ _ => PortInv.after hready i) hinv hstep

/-- Settles O53: the reset state is what `resetBlock` makes of itself, so the invariants of the units hold in it by
their `reset`. -/
theorem resetMeetsTheInvariants : Obligations.ResetMeetsTheInvariants := by
  intro cfg s
  have hreset : resetBlock s = s := rfl
  obtain ⟨h0, h1, hremaining, hlast, hbl, hall⟩ := hreset ▸ unitRanges_keeps.reset s
  exact ⟨⟨Nat.two_pow_pos _, h0, h1, hremaining, hlast, hbl, hall, DataFits.of_none rfl⟩, engineInv_keeps.reset s,
    faultInv_keeps.reset s, .of_reset rfl, buttonInv_keeps.reset s, displayInv_keeps.reset s, .of_ready rfl⟩
end

section
/-! The proof about the host's `TICK` (30_encoding.md R90): its wait, its reading of the clock, and its update of the
engine, with the environment free between them. -/

namespace Sys2Proof.Machine

open Host

/-! ### The host's program -/

theorem onOk_answers {s : State} {d : Nat} (h : s.answers d) (go : Nat → State → Outcome State Fault Refusal) :
    onOk (.next s) go = go d s := by
  have hdata : okData s = some d := by rw [okData, show s.rsp = some ⟨.ok, d⟩ from h]
  simp only [onOk, hdata]

theorem onOk_silent {s : State} (h : s.rsp = none) (go : Nat → State → Outcome State Fault Refusal) :
    onOk (.next s) go = .next s := by
  have hdata : okData s = none := by rw [okData, h]
  simp only [onOk, hdata]

/-! ### The wait -/

theorem waitThrough_ready {s : State} (hready : s.waiting = false) (moves : List Event) : waitThrough moves s = s := by
  cases moves with
  | nil => rfl
  | cons e es => rw [waitThrough, if_neg (by simp [hready])]

/-- What a `CLK.WAIT` that ended has done to the block: a coarse accumulator has grown by one period. -/
structure WaitDone (s t : State) : Prop where
  units : SameUnits s t
  answer : t.answers 0
  coarse : s.par.variant = .coarse →
    t.clk = { s.clk with msAcc := (s.clk.msAcc + s.par.tickPeriod) % 2 ^ s.par.msW }
  fine : s.par.variant = .fine → t.clk = s.clk

/-- The end of a wait, from whatever HWT, the contacts and the port have come to in it. -/
theorem waitEnd_waitDone (s : State) (waiting wrapClr : Bool) (hwt : Hwt) (contacts : Contacts) :
    WaitDone s (waitEnd { s with
      waiting := waiting, rsp := none, wrapClr := wrapClr, hwt := hwt, contacts := contacts }) := by
  refine ⟨SameUnits.trans (.of_update s ..) (waitEnd_sameUnits _), (waitEnd_answers _).2, fun hcoarse => ?_,
    fun hfine => ?_⟩
  · obtain ⟨k, env, h, -, -⟩ := waitEnd_coarse_eq (s := { s with
      waiting := waiting, rsp := none, wrapClr := wrapClr, hwt := hwt, contacts := contacts }) hcoarse
    rw [h]
    rfl
  · rw [waitEnd_fine_eq (by exact hfine)]

/-- The wait of a `TICK` ends at once when the flag is set, and otherwise with the wrap that comes in it. -/
theorem tickWait_ends {s : State} {moves : List Event} (hfault : s.fault = false) (hvalid : s.clk.clkValid = true)
    (hwrap : s.hwt.wrapf = true ∨ (ClockInv s ∧ .reset ∉ moves ∧
      maxCount s.par < s.hwt.phase.toNat + advanceTotal moves)) :
    ∃ t, tickWait moves s = .next t ∧ WaitDone s t := by
  rcases s.hwt.wrapf.eq_false_or_eq_true with hset | hclear
  · rw [tickWait, exec_clkWait_set hfault hvalid hset]
    exact ⟨_, congrArg Outcome.next (waitThrough_ready (waitEnd_answers _).1 moves),
      waitEnd_waitDone s true s.wrapClr s.hwt s.contacts⟩
  · obtain ⟨hinv, hreset, hpasses⟩ := hwrap.resolve_left (by simp [hclear])
    rw [tickWait, exec_clkWait_clear hfault hvalid hclear]
    obtain ⟨hwt, contacts, wrapClr, hends, -⟩ := waitThrough_eq moves (s := { s with waiting := true, rsp := none })
      (hinv.maxCount_lt hvalid) rfl rfl hclear (hinv.phase_le hvalid) hreset
    exact ⟨_, congrArg Outcome.next (hends hpasses).2, waitEnd_waitDone s true wrapClr hwt contacts⟩

/-- The wait of a `TICK` in which no wrap comes is still in progress. -/
theorem tickWait_blocks {s : State} {moves : List Event} (hfault : s.fault = false) (hvalid : s.clk.clkValid = true)
    (hclear : s.hwt.wrapf = false) (hinv : ClockInv s) (hreset : .reset ∉ moves)
    (hstays : s.hwt.phase.toNat + advanceTotal moves ≤ maxCount s.par) : ∃ hwt contacts wrapClr, tickWait moves s =
      .next { s with waiting := true, rsp := none, wrapClr := wrapClr, hwt := hwt, contacts := contacts } := by
  rw [tickWait, exec_clkWait_clear hfault hvalid hclear]
  obtain ⟨hwt, contacts, wrapClr, -, hgoes⟩ := waitThrough_eq moves (s := { s with waiting := true, rsp := none })
    (hinv.maxCount_lt hvalid) rfl rfl hclear (hinv.phase_le hvalid) hreset
  exact ⟨hwt, contacts, wrapClr, congrArg Outcome.next (hgoes hstays)⟩

/-! ### The reading of the clock, and the update -/

/-- The `now()` of the variant answers the accumulator it leaves, in milliseconds. -/
theorem exec_tickRead {s : State} (hfault : s.fault = false) (hvalid : s.clk.clkValid = true) :
    ∃ t d, exec (tickRead s) s = .next t ∧ t.answers d ∧ SameUnits s t ∧
      (s.par.variant = .coarse → d = s.clk.msAcc % 2 ^ s.par.msW ∧ t.clk = s.clk) ∧
      (s.par.variant = .fine → d = ticksToMs s.par t.clk.fticks.toNat % 2 ^ s.par.msW) := by
  cases hvariant : s.par.variant with
  | coarse =>
    refine ⟨respond .ok s.clk.msAcc s, s.clk.msAcc % 2 ^ s.par.msW, ?_, rfl, .of_update s .., fun _ => ⟨rfl, rfl⟩,
      nofun⟩
    rw [tickRead, hvariant, exec_eq, after, decide_eq_true hvariant, runClockCommand_ready hfault hvalid]
    rfl
  | fine =>
    obtain ⟨k1, k2, env, hread, -, -⟩ := exec_fclkNow hfault hvariant hvalid
    refine ⟨fineRead k1 k2 env s, _, ?_, rfl, .of_update s .., nofun, fun _ => rfl⟩
    rw [tickRead, hvariant]
    exact hread

/-- Under the budget invariant `ENG.UPDATE` ends with `OK`, and has noted its time. -/
theorem exec_engUpdate_ok {s : State} (hfault : s.fault = false) (hinv : EngineInv s) (now : Nat) :
    ∃ t, exec (.engUpdate now) s = .next t ∧ t.answers 0 ∧ t.fault = false ∧ EngineInv t ∧ t.eng.lastUpdate = now ∧
      t.clk = s.clk := by
  have hinputs := engineInputs_engineInv hinv now
  obtain ⟨d, hframe⟩ := frame_directive_ok hinputs now (engineInputs now s).dsp
  refine ⟨_, exec_engUpdate hfault hframe, rfl, ?_, hinputs, rfl, ?_⟩
  · rw [engineInputs_eq]
    exact hfault
  · rw [engineInputs_eq]

end Sys2Proof.Machine

open Sys2Proof Sys2Proof.Machine

/-- Settles O52: the wait ends (`tickWait_ends`) or blocks (`tickWait_blocks`); after it each command answers `OK`, and
what lies between two of them touches neither the clock unit nor the engine. -/
theorem tickFeedsTheEngineTheClock : Obligations.TickFeedsTheEngineTheClock := by
  intro s m hfault hvalid hinv passes
  refine ⟨fun hwrap => ?_, fun hclear hclock hreset hno => ?_⟩
  · obtain ⟨s1, hwait, hdone⟩ := tickWait_ends hfault hvalid hwrap
    have hvalid1 : s1.clk.clkValid = true := by
      cases hvariant : s.par.variant with
      | coarse => rw [hdone.coarse hvariant]; exact hvalid
      | fine => rw [hdone.fine hvariant]; exact hvalid
    obtain ⟨s2, now, hread, hanswer, hunits, hcoarse, hfine⟩ :=
      exec_tickRead (s := between m.beforeNow s1) (hdone.units.fault.trans hfault) hvalid1
    have hpar : (between m.beforeNow s1).par = s.par := congrArg Config.params hdone.units.cfg
    have hsame : SameUnits s s2 := hdone.units.trans (SameUnits.trans (.of_update s1 ..) hunits)
    have hinv2 : EngineInv (between m.beforeUpdate s2) :=
      engineInv_keeps.sameUnits (hsame.trans (.of_update s2 ..)) hinv
    obtain ⟨t, hupdate, hok, hready, hbudget, hlast, hclk⟩ :=
      exec_engUpdate_ok (s := between m.beforeUpdate s2) (hsame.fault.trans hfault) hinv2 now
    refine ⟨t, ?_, hok, hready, hbudget, fun hvariant => ?_, fun hvariant => ?_⟩
    · rw [tick, hwait, onOk_answers hdone.answer]
      exact (congrArg (onOk · _) hread).trans ((onOk_answers hanswer _).trans hupdate)
    · obtain ⟨hnow, hkept⟩ := hcoarse (by rw [hpar]; exact hvariant)
      rw [hpar, between_clk, hdone.coarse hvariant, Nat.mod_mod] at hnow
      rw [hclk, between_clk, hkept, between_clk, hdone.coarse hvariant, hlast, hnow]
      exact ⟨rfl, rfl⟩
    · rw [hlast, hclk, hfine (by rw [hpar]; exact hvariant), hpar]
      rfl
  · obtain ⟨hwt, contacts, wrapClr, hblocks⟩ :=
      tickWait_blocks hfault hvalid hclear hclock hreset (Nat.not_lt.mp hno)
    rw [tick, hblocks, onOk_silent rfl]
    exact ⟨_, rfl, rfl, rfl, rfl, rfl⟩
end
